-- ==== Sys2Proof/Word.lean ====
section
/-! DEFINITION. The word types of the x-BIMU StreamDecoder (R9, R11, R12): the byte, the 16-bit
payload field, the 12-bit command word and the 32-bit status word.  Bit 0 is the least significant
bit of every value (R11); `a ++ b` puts `a` in the high bits. -/

namespace Sys2Proof

/-- One received byte, and every u8 value (R9, R12). -/
abbrev Byte := BitVec 8

/-- A 16-bit payload field as its bit pattern; its value is the two's-complement reading (R9, R12). -/
abbrev S16 := BitVec 16

/-- A command word of the command channel (R63). -/
abbrev CmdWord := BitVec 12

/-- The status word (R29). -/
abbrev StatusWord := BitVec 32

end Sys2Proof
end

