-- ==== Sys2Proof/Syntax.lean ====
section
/-! DEFINITION. The closed sets of names of the block (packet types, protocol revisions), the records
it publishes (R59) and `Instr`, with one constructor for each row of spec/opcode_table.json: the nine
commands of R64 and the six frame formats of R58 and R70. -/

namespace Sys2Proof

/-- The packet types, a closed enumeration (R15, R56). -/
inductive PacketType where
  | Q  -- Quaternion
  | S  -- Sensor
  | B  -- Battery
  deriving DecidableEq, Repr, Inhabited

/-- The protocol revisions (R2, R6): with and without a sequence counter. -/
inductive Rev where
  | WC  -- with counter
  | NC  -- no counter
  deriving DecidableEq, Repr, Inhabited

/-- The payload fields of a Quaternion frame, in frame order (R57). -/
structure QuaternionFields where
  w : S16
  x : S16
  y : S16
  z : S16
  deriving DecidableEq, Repr, Inhabited

/-- The payload fields of a Sensor frame, in frame order (R57). -/
structure SensorFields where
  gyrX : S16
  gyrY : S16
  gyrZ : S16
  accX : S16
  accY : S16
  accZ : S16
  magX : S16
  magY : S16
  magZ : S16
  deriving DecidableEq, Repr, Inhabited

/-- The payload field of a Battery frame, in millivolts as the device sent it (R57, R96). -/
structure BatteryFields where
  voltage : S16
  deriving DecidableEq, Repr, Inhabited

/-- A decoded record (R59): the payload fields and, when `REV = WC`, the unsigned sequence counter.
With `REV = NC` there is no counter at all (D21), which is `none`. -/
structure Rec (α : Type) where
  fields : α
  counter : Option Byte
  deriving DecidableEq, Repr

/-- A record of any packet type: what `Record(t, r)` carries (R66). -/
inductive Record where
  | quaternion (r : Rec QuaternionFields)
  | sensor (r : Rec SensorFields)
  | battery (r : Rec BatteryFields)
  deriving DecidableEq, Repr

/-- The type of a record. -/
def Record.type : Record → PacketType
  | .quaternion _ => .Q
  | .sensor _ => .S
  | .battery _ => .B

/-- The sequence counter of a record, if it has one (R59). -/
def Record.counter : Record → Option Byte
  | .quaternion r => r.counter
  | .sensor r => r.counter
  | .battery r => r.counter

/-- One constructor for each row of spec/opcode_table.json.

The first nine are the commands of the command channel (R64).  The last six are the rows of format
`frame`: a whole frame of the byte stream, with its payload fields, its sequence counter in revision
WC, and its last byte `k`, the checksum byte, whatever value it has (R55, R57, R58).  A frame is not
a command (R70); as an instruction it stands for its bytes delivered to the block one FEED after
another, the expansion of `SENDQ`, `SENDS`, `SENDB` and `FEEDS` in R69 (assumption log entry 2). -/
inductive Instr where
  | nop
  | feed (b : Byte)
  | takeQ
  | takeS
  | takeB
  | peekQ
  | peekS
  | peekB
  | status
  | frameQWC (f : QuaternionFields) (counter : Byte) (k : Byte)
  | frameQNC (f : QuaternionFields) (k : Byte)
  | frameSWC (f : SensorFields) (counter : Byte) (k : Byte)
  | frameSNC (f : SensorFields) (k : Byte)
  | frameBWC (f : BatteryFields) (counter : Byte) (k : Byte)
  | frameBNC (f : BatteryFields) (k : Byte)
  deriving DecidableEq, Repr

end Sys2Proof
end

