-- ==== Sys2Proof/Config.lean ====
section
/-! DEFINITION. The implementation parameters (R6 to R10): the open protocol revision, as a constant
without a body, and the capacity of the receive window. -/

namespace Sys2Proof

/-- `REV`, the configured protocol revision (R6, R10): OPEN in the spec (D13), so a constant that
nothing in Lean can evaluate.  A statement about it holds for both revisions. -/
opaque Config.rev : Rev

/-- `C`, the capacity of the receive window in bytes (R7, D8). -/
def Config.capacity : Nat := 256

end Sys2Proof
end

