-- ==== Sys2Proof/Decode.lean ====
section
/-! DEFINITION. The two encodings of the block (R54): the PacketType descriptor table (R56 to R58), the
byte order and the checksum of a frame (R44, R60, R61), the decoder of command words (R63 to R65) and
of frames (R55 to R58, R70), total and rejecting by name, and the encoder from the same tables. -/

namespace Sys2Proof

/-! ### The descriptor table (R28, R56 to R58) -/

/-- `TAG(t)`, the first byte of a frame: the ASCII code of its letter (R56, G1). -/
def tag : PacketType → Byte
  | .Q => 0x51
  | .S => 0x53
  | .B => 0x42

/-- The packet type a tag byte names; no other byte is a tag (R56). -/
def typeOfTag (b : Byte) : Option PacketType :=
  if b = tag .Q then some .Q
  else if b = tag .S then some .S
  else if b = tag .B then some .B
  else none

/-- `NF(t)`, the number of 16-bit payload fields (R57). -/
def fieldCount : PacketType → Nat
  | .Q => 4
  | .S => 9
  | .B => 1

/-- `HASCTR(REV)`: whether a frame carries the sequence-counter byte (R57). -/
def hasCounter : Rev → Bool
  | .WC => true
  | .NC => false

/-- `LEN(REV, t) = 1 + 2·NF(t) + (1 if REV = WC else 0) + 1`, the frame length in bytes (R58). -/
def frameLen (rev : Rev) (t : PacketType) : Nat :=
  1 + 2 * fieldCount t + (if hasCounter rev then 1 else 0) + 1

/-- `MAXLEN`, the longest frame of the active revision (R8): the Sensor frame. -/
def maxLen (rev : Rev) : Nat := frameLen rev .S

/-- `ORDER`, the fixed priority order of the packet types (R15, R74). -/
def priorityOrder : List PacketType := [.Q, .S, .B]

/-! ### Byte order and checksum of a frame -/

/-- A 16-bit field from its two bytes, the first received being the high byte (R44, R60). -/
def be16 (hi lo : Byte) : S16 := hi ++ lo

/-- `v[15:8]`, sent first (R44, R69). -/
def hiByte (v : S16) : Byte := v.extractLsb' 8 8

/-- `v[7:0]` (R44, R69). -/
def loByte (v : S16) : Byte := v.extractLsb' 0 8

/-- `sext_16(v)`: the value of a 16-bit pattern, `v` below 0x8000 and `v − 0x10000` from there (R12). -/
def sext16 (v : S16) : Int :=
  if v.toNat < 0x8000 then v.toNat else (v.toNat : Int) - 0x10000

/-- The XOR of a list of bytes, 0x00 of none (R12). -/
def xorBytes : List Byte → Byte
  | [] => 0
  | b :: bs => b ^^^ xorBytes bs

/-- The payload bytes of a Quaternion frame (R57). -/
def QuaternionFields.bytes (f : QuaternionFields) : List Byte :=
  [hiByte f.w, loByte f.w, hiByte f.x, loByte f.x, hiByte f.y, loByte f.y, hiByte f.z, loByte f.z]

/-- The payload bytes of a Sensor frame (R57). -/
def SensorFields.bytes (f : SensorFields) : List Byte :=
  [hiByte f.gyrX, loByte f.gyrX, hiByte f.gyrY, loByte f.gyrY, hiByte f.gyrZ, loByte f.gyrZ,
   hiByte f.accX, loByte f.accX, hiByte f.accY, loByte f.accY, hiByte f.accZ, loByte f.accZ,
   hiByte f.magX, loByte f.magX, hiByte f.magY, loByte f.magY, hiByte f.magZ, loByte f.magZ]

/-- The payload bytes of a Battery frame (R57). -/
def BatteryFields.bytes (f : BatteryFields) : List Byte :=
  [hiByte f.voltage, loByte f.voltage]

/-! ### Decoding -/

/-- What the host can put to the block as one unit. -/
inductive Encoded where
  /-- One word of the command channel (R63). -/
  | word (c : CmdWord)
  /-- A group of stream bytes for the block to consume one FEED after another (R69 `FEEDS`, R88). -/
  | burst (bytes : List Byte)
  deriving DecidableEq, Repr

/-- Why the decoder reads no instruction. -/
inductive Reject where
  /-- `OP` is 0x5 to 0xF (R65). -/
  | reservedOpcode
  /-- `OP` is 0x0 or 0x4 and `ARG ≠ 0x00` (R65). -/
  | argNotZero
  /-- `OP` is 0x2 or 0x3 and `ARG[7:2] ≠ 0` (R65). -/
  | typeHighBitsNotZero
  /-- `OP` is 0x2 or 0x3 and `TY = 3` (R65). -/
  | reservedType
  /-- The bytes are no frame of any row: their first is not the tag of a format that long (R56, R58). -/
  | notAFrame
  deriving DecidableEq, Repr

/-- `OP = c[11:8]` (R63). -/
def opField (c : CmdWord) : BitVec 4 := c.extractLsb' 8 4

/-- `ARG = c[7:0]` (R63). -/
def argField (c : CmdWord) : Byte := c.extractLsb' 0 8

/-- `TY = ARG[1:0]` (R63). -/
def typeField (c : CmdWord) : BitVec 2 := c.extractLsb' 0 2

/-- `ARG[7:2]`, 0 in a legal TAKE or PEEK (R63). -/
def typeHighBits (c : CmdWord) : BitVec 6 := c.extractLsb' 2 6

/-- A command whose `ARG` must be 0x00 (R63, R65). -/
def decodePlain (c : CmdWord) (i : Instr) : Except Reject Instr :=
  if argField c = 0 then .ok i else .error .argNotZero

/-- A command with a type field: 0 = Q, 1 = S, 2 = B, 3 reserved (R64, R65). -/
def decodeTyped (c : CmdWord) (q s b : Instr) : Except Reject Instr :=
  if typeHighBits c ≠ 0 then .error .typeHighBitsNotZero
  else match (typeField c).toNat with
    | 0 => .ok q
    | 1 => .ok s
    | 2 => .ok b
    | _ => .error .reservedType

/-- The opcode map (R64). -/
def decodeWord (c : CmdWord) : Except Reject Instr :=
  match (opField c).toNat with
  | 0 => decodePlain c .nop
  | 1 => .ok (.feed (argField c))
  | 2 => decodeTyped c .takeQ .takeS .takeB
  | 3 => decodeTyped c .peekQ .peekS .peekB
  | 4 => decodePlain c .status
  | _ => .error .reservedOpcode

/-- The frame formats (R55, R57, R58, R70).  The six lengths differ, so the number of bytes and the
tag byte fix the row.  The checksum byte is an operand: a frame with a wrong one is decoded, and is
not well formed (R61). -/
def decodeBurst (bytes : List Byte) : Except Reject Instr :=
  match bytes with
  | [t, w1, w0, x1, x0, y1, y0, z1, z0, ctr, k] =>
    if t = tag .Q then .ok (.frameQWC ⟨be16 w1 w0, be16 x1 x0, be16 y1 y0, be16 z1 z0⟩ ctr k)
    else .error .notAFrame
  | [t, w1, w0, x1, x0, y1, y0, z1, z0, k] =>
    if t = tag .Q then .ok (.frameQNC ⟨be16 w1 w0, be16 x1 x0, be16 y1 y0, be16 z1 z0⟩ k)
    else .error .notAFrame
  | [t, a1, a0, b1, b0, c1, c0, d1, d0, e1, e0, f1, f0, g1, g0, h1, h0, i1, i0, ctr, k] =>
    if t = tag .S then
      .ok (.frameSWC ⟨be16 a1 a0, be16 b1 b0, be16 c1 c0, be16 d1 d0, be16 e1 e0, be16 f1 f0,
        be16 g1 g0, be16 h1 h0, be16 i1 i0⟩ ctr k)
    else .error .notAFrame
  | [t, a1, a0, b1, b0, c1, c0, d1, d0, e1, e0, f1, f0, g1, g0, h1, h0, i1, i0, k] =>
    if t = tag .S then
      .ok (.frameSNC ⟨be16 a1 a0, be16 b1 b0, be16 c1 c0, be16 d1 d0, be16 e1 e0, be16 f1 f0,
        be16 g1 g0, be16 h1 h0, be16 i1 i0⟩ k)
    else .error .notAFrame
  | [t, v1, v0, ctr, k] =>
    if t = tag .B then .ok (.frameBWC ⟨be16 v1 v0⟩ ctr k) else .error .notAFrame
  | [t, v1, v0, k] =>
    if t = tag .B then .ok (.frameBNC ⟨be16 v1 v0⟩ k) else .error .notAFrame
  | _ => .error .notAFrame

/-- The instruction an encoded unit stands for, or why it stands for none. -/
def decode : Encoded → Except Reject Instr
  | .word c => decodeWord c
  | .burst bytes => decodeBurst bytes

/-! ### Encoding -/

/-- A command word from its fields (R63). -/
def cmdWord (op : BitVec 4) (arg : Byte) : CmdWord := op ++ arg

/-- The bytes of a frame (R55, R57): tag, payload, counter if there is one, checksum byte. -/
def frameBytes (t : PacketType) (payload : List Byte) (counter : Option Byte) (k : Byte) :
    List Byte :=
  tag t :: (payload ++ (counter.toList ++ [k]))

/-- The encoding of an instruction: its command word (R64), or its frame bytes (R57). -/
def encode : Instr → Encoded
  | .nop => .word (cmdWord 0x0 0x00)
  | .feed b => .word (cmdWord 0x1 b)
  | .takeQ => .word (cmdWord 0x2 0x00)
  | .takeS => .word (cmdWord 0x2 0x01)
  | .takeB => .word (cmdWord 0x2 0x02)
  | .peekQ => .word (cmdWord 0x3 0x00)
  | .peekS => .word (cmdWord 0x3 0x01)
  | .peekB => .word (cmdWord 0x3 0x02)
  | .status => .word (cmdWord 0x4 0x00)
  | .frameQWC f ctr k => .burst (frameBytes .Q f.bytes (some ctr) k)
  | .frameQNC f k => .burst (frameBytes .Q f.bytes none k)
  | .frameSWC f ctr k => .burst (frameBytes .S f.bytes (some ctr) k)
  | .frameSNC f k => .burst (frameBytes .S f.bytes none k)
  | .frameBWC f ctr k => .burst (frameBytes .B f.bytes (some ctr) k)
  | .frameBNC f k => .burst (frameBytes .B f.bytes none k)

/-! ### The record a frame carries -/

/-- The revision of a frame and the record its bytes stand for (R59); none for a command. -/
def Instr.frameRecord : Instr → Option (Rev × Record)
  | .frameQWC f ctr _ => some (.WC, .quaternion ⟨f, some ctr⟩)
  | .frameQNC f _ => some (.NC, .quaternion ⟨f, none⟩)
  | .frameSWC f ctr _ => some (.WC, .sensor ⟨f, some ctr⟩)
  | .frameSNC f _ => some (.NC, .sensor ⟨f, none⟩)
  | .frameBWC f ctr _ => some (.WC, .battery ⟨f, some ctr⟩)
  | .frameBNC f _ => some (.NC, .battery ⟨f, none⟩)
  | .nop | .feed _ | .takeQ | .takeS | .takeB | .peekQ | .peekS | .peekB | .status => none

/-- The stream bytes an instruction has the block consume: a frame's bytes, or the byte of a FEED. -/
def Instr.streamBytes : Instr → List Byte
  | .feed b => [b]
  | .nop | .takeQ | .takeS | .takeB | .peekQ | .peekS | .peekB | .status => []
  | .frameQWC f ctr k => frameBytes .Q f.bytes (some ctr) k
  | .frameQNC f k => frameBytes .Q f.bytes none k
  | .frameSWC f ctr k => frameBytes .S f.bytes (some ctr) k
  | .frameSNC f k => frameBytes .S f.bytes none k
  | .frameBWC f ctr k => frameBytes .B f.bytes (some ctr) k
  | .frameBNC f k => frameBytes .B f.bytes none k

/-! ### Words numbered as spec/opcode_table.json numbers them -/

/-- The `n` lowest bytes of a number, the least significant first: the first byte of the stream holds
bits 7..0. -/
def bytesOfNat (w : Nat) : Nat → List Byte
  | 0 => []
  | n + 1 => BitVec.ofNat 8 w :: bytesOfNat (w / 256) n

/-- The encoded unit an opcode-table row's bits stand for.

A command row has 12 bits, 16 in whole bytes.  A frame row gives the tag byte only, 8 bits; the bytes
above it are zero up to the longest format with that tag, the one of revision WC (log entry 4).  More
than 16 bits are the bytes of a frame, all of them. -/
def tableUnit (nbits w : Nat) : Encoded :=
  if nbits ≤ 8 then
    match typeOfTag (BitVec.ofNat 8 w) with
    | some t => .burst (bytesOfNat (w % 256) (frameLen .WC t))
    | none => .burst (bytesOfNat w 1)
  else if nbits ≤ 16 then .word (BitVec.ofNat 12 w)
  else .burst (bytesOfNat w ((nbits + 7) / 8))

/-- The instruction the decoder reads from an opcode-table row's bits. -/
def decodeTableWord (nbits w : Nat) : Option Instr :=
  if 8 < nbits ∧ nbits ≤ 16 ∧ 4096 ≤ w then none
  else match decode (tableUnit nbits w) with
    | .ok i => some i
    | .error _ => none

end Sys2Proof
end

