-- ==== Sys2Proof/Machine/State.lean ====
section
/-! DEFINITION. The state of the block (R18), the host's side of its two channels (R63, R66, R121), the
outcomes a step can have besides a next state, and the state after reset (R34, R121). -/

namespace Sys2Proof.Machine

/-- The synchronisation state (R18, R24): whether the block trusts its frame alignment. -/
inductive Sync where
  | OutOfSync
  | InSync
  deriving DecidableEq, Repr, Inhabited

/-- A response of the block on the response channel (R66). -/
inductive Response where
  /-- `Ack`, of FEED and NOP. -/
  | ack
  /-- `Record(t, r)`, of a TAKE of an occupied mailbox; the record's constructor is `t`. -/
  | record (r : Record)
  /-- `Empty`, of a TAKE of an empty mailbox (D23). -/
  | empty
  /-- `Flag(1)` as `true` and `Flag(0)` as `false`, of a PEEK. -/
  | flag (ready : Bool)
  /-- `Status(w32)`, of STATUS. -/
  | status (w : StatusWord)
  /-- `Illegal(c)`, of an illegal command word (R106). -/
  | illegal (c : CmdWord)
  deriving DecidableEq, Repr

/-- What the host does to the block, one event at a time (R126). -/
inductive HostEvent where
  /-- The host offers a command word, or a group of stream bytes to be fed in order. -/
  | offer (x : Encoded)
  /-- The host asserts the reset input (R121). -/
  | assertRst
  /-- The host deasserts the reset input (R121). -/
  | deassertRst
  deriving DecidableEq, Repr

/-- The state.  The first seven fields are the block's whole architectural state (R18).  `rev` is the
configuration value the block samples at reset and holds (R27, R122), `rst` the level of its reset
input, and `awaitingReset` whether it has been reset since power-up (R121).  `pending` and `responses` are the host's side of the command and the response channel
(R50, R66, R125): the events still to come, and the responses given so far (log entry 3). -/
structure State where
  /-- `W`, the receive window (R21): the bytes that are not 0x00, addresses rising. -/
  window : List Host.Cell
  /-- `wp`, the write pointer (R22). -/
  wp : BitVec 8
  /-- `cnt`, the since-last-decode counter (R23). -/
  cnt : BitVec 8
  /-- `sync` (R24). -/
  sync : Sync
  /-- `slot[Q]` (R25). -/
  slotQ : Option (Rec QuaternionFields)
  /-- `slot[S]` (R25). -/
  slotS : Option (Rec SensorFields)
  /-- `slot[B]` (R25). -/
  slotB : Option (Rec BatteryFields)
  /-- `REV`, as sampled at reset (R27, R122). -/
  rev : Rev
  /-- The reset input: `true` while `rst` is asserted (R121). -/
  rst : Bool
  /-- `true` from power-up until the first reset (R121, log entry 18). -/
  awaitingReset : Bool
  /-- The host's events still to come, the next one first. -/
  pending : List HostEvent
  /-- The responses given so far, the oldest first (R125). -/
  responses : List Response
  deriving DecidableEq, Repr

/-- Why a step stops with a fault. -/
inductive Fault where
  /-- The host issued an illegal command word `c` (R65).  Raised by `step` when it decodes the word.
  Safe: the block itself answers `Illegal(c)` and goes on (R106), and the spec tells a model to treat
  the outcome as a fault of the host (R107), which can only make a claim unprovable. -/
  | illegalCommand (c : CmdWord)
  deriving DecidableEq, Repr

/-- Why a step is refused. -/
inductive Refusal where
  /-- An instruction without a meaning.  Raised by no arm of `exec`: every instruction has its meaning.
  Safe: a refusal stops the run. -/
  | notModelled (mnemonic : String)
  deriving DecidableEq, Repr

/-- The state right after reset, for a given revision (R34, R121): the window all 0x00, both counters
0, out of sync, every mailbox empty; reset deasserted and done, nothing offered and nothing answered
yet. -/
def State.fresh (rev : Rev) : State where
  window := []
  wp := 0
  cnt := 0
  sync := .OutOfSync
  slotQ := none
  slotS := none
  slotB := none
  rev := rev
  rst := false
  awaitingReset := false
  pending := []
  responses := []

/-- A block at power-up, which has not been reset (R121).  The spec gives no value for its registers
before the first reset, so they are those of an arbitrary state `contents`, as is the level of `rst`. -/
def State.powerUp (contents : State) : State := { contents with awaitingReset := true }

/-- The machine right after reset, with the configured revision (R6, R34). -/
def State.reset : State := State.fresh Config.rev

end Sys2Proof.Machine
end

