-- ==== Sys2Proof/Machine/Operands.lean ====
section
/-! DEFINITION. What the commands read (R20, R35, R41): a byte of the window, the tag position, the
checksum and the payload fields of a candidate window, and a mailbox by its type. -/

namespace Sys2Proof.Machine

/-- The byte at an address of a window's list; an unlisted one reads 0x00, its reset value (R34). -/
def readCell : List Host.Cell → Nat → Byte
  | [], _ => 0
  | (a, v) :: m, i => if i = a then v else readCell m i

/-- `W[i]`, with the index taken modulo `C` (R13, R42). -/
def State.windowByte (s : State) (i : Nat) : Byte :=
  readCell s.window (i % Config.capacity)

/-- `XOR_{i = base}^{base + n − 1} W[i]` (R12, R78). -/
def State.xorRange (s : State) (base : Nat) : Nat → Byte
  | 0 => 0
  | n + 1 => s.xorRange base n ^^^ s.windowByte (base + n)

/-- The first index of the candidate window of type `t`, `wp − LEN(REV, t)` (R17, R60); meant only
where the length gate has let the type through. -/
def State.candidateStart (s : State) (t : PacketType) : Nat :=
  s.wp.toNat - frameLen s.rev t

/-- The tag position (R77): the origin when InSync, the start of the candidate window when OutOfSync.
That the two differ from the checksum's window when InSync is the block's behaviour (R86). -/
def State.tagPosition (s : State) (t : PacketType) : Nat :=
  match s.sync with
  | .InSync => 0
  | .OutOfSync => s.candidateStart t

/-- The length gate (R76): it compares the write pointer, not a count of bytes (D9). -/
def State.gateOpen (s : State) (t : PacketType) : Bool :=
  !(s.wp.toNat < frameLen s.rev t)

/-- The tag test (R77). -/
def State.tagMatches (s : State) (t : PacketType) : Bool :=
  s.windowByte (s.tagPosition t) == tag t

/-- The checksum of the candidate window, in both sync states (R78). -/
def State.checksum (s : State) (t : PacketType) : Byte :=
  s.xorRange (s.candidateStart t) (frameLen s.rev t)

/-- Whether the attempt for type `t` succeeds: length gate, tag test, checksum (R74). -/
def State.passes (s : State) (t : PacketType) : Bool :=
  s.gateOpen t && s.tagMatches t && s.checksum t == 0

/-- The first type in priority order whose attempt succeeds (R74, R83, R84). -/
def State.firstPassing (s : State) : Option PacketType :=
  priorityOrder.find? s.passes

/-- Payload field `k` of the frame that starts at index `base` (R57, R60). -/
def State.fieldAt (s : State) (base k : Nat) : S16 :=
  be16 (s.windowByte (base + 1 + 2 * k)) (s.windowByte (base + 2 + 2 * k))

/-- The sequence counter of the frame of type `t` that starts at index `base`, if the revision has
one (R57, R60). -/
def State.counterAt (s : State) (t : PacketType) (base : Nat) : Option Byte :=
  if hasCounter s.rev then some (s.windowByte (base + 1 + 2 * fieldCount t)) else none

/-- `DecodeRecord(REV, t, base)` (R71, R79). -/
def State.decodeRecord (s : State) (t : PacketType) (base : Nat) : Record :=
  match t with
  | .Q => .quaternion
      ⟨⟨s.fieldAt base 0, s.fieldAt base 1, s.fieldAt base 2, s.fieldAt base 3⟩, s.counterAt .Q base⟩
  | .S => .sensor
      ⟨⟨s.fieldAt base 0, s.fieldAt base 1, s.fieldAt base 2, s.fieldAt base 3, s.fieldAt base 4,
        s.fieldAt base 5, s.fieldAt base 6, s.fieldAt base 7, s.fieldAt base 8⟩, s.counterAt .S base⟩
  | .B => .battery ⟨⟨s.fieldAt base 0⟩, s.counterAt .B base⟩

/-- `slot[t]` (R25). -/
def State.slot (s : State) : PacketType → Option Record
  | .Q => s.slotQ.map .quaternion
  | .S => s.slotS.map .sensor
  | .B => s.slotB.map .battery

end Sys2Proof.Machine
end

