-- ==== Sys2Proof/Machine/Flags.lean ====
section
/-! DEFINITION. The four status flags (R26), the level outputs (R36) and the status word (R29, R30,
R101).  None of them is storage: each is computed from the state. -/

namespace Sys2Proof.Machine

/-- `SYNC` (R26). -/
def State.syncFlag (s : State) : Bool := s.sync == .InSync

/-- `RDY_t`: `slot[t] ≠ none` (R26). -/
def State.ready (s : State) (t : PacketType) : Bool := (s.slot t).isSome

/-- The status word, as the concatenation of R101: WP, CNT, three zeros, REV, RDY_B, RDY_S, RDY_Q,
SYNC, widened to 32 bits. -/
def State.statusWord (s : State) : StatusWord :=
  (s.wp ++ s.cnt ++ (0b000 : BitVec 3) ++ BitVec.ofBool (s.rev == .WC) ++
    BitVec.ofBool (s.ready .B) ++ BitVec.ofBool (s.ready .S) ++ BitVec.ofBool (s.ready .Q) ++
    BitVec.ofBool s.syncFlag).setWidth 32

/-- The level outputs of the block (R36, R37): there is no other. -/
structure Levels where
  inSync : Bool
  readyQ : Bool
  readyS : Bool
  readyB : Bool
  deriving DecidableEq, Repr

/-- The levels the block drives between commands (R36). -/
def State.levels (s : State) : Levels :=
  ⟨s.syncFlag, s.ready .Q, s.ready .S, s.ready .B⟩

end Sys2Proof.Machine
end

