-- ==== Sys2Proof/Machine/Ops.lean ====
section
/-! DEFINITION. The shared operations over the window, the counters and the mailboxes: the steps of
FEED (R71 to R82), TAKE, PEEK and STATUS (R93, R97, R101), the response channel (R66) and reset (R121).
The block has no trap to enter and none to return from (R105, R113); its one error outcome, the
`Illegal` response to an illegal command word, is here too (R106). -/

namespace Sys2Proof.Machine

/-! ### The window -/

/-- Writes a byte into a window's list, keeping the canonical form: addresses rising, and no entry for
a byte that is 0x00. -/
def writeCell (m : List Host.Cell) (i : Nat) (b : Byte) : List Host.Cell :=
  match m with
  | [] => if b = 0 then [] else [(i, b)]
  | (a, v) :: m =>
    if i < a then (if b = 0 then (a, v) :: m else (i, b) :: (a, v) :: m)
    else if i = a then (if b = 0 then m else (i, b) :: m)
    else (a, v) :: writeCell m i b

/-- Entries at addresses from `lo` on, rising, inside the window, none of them 0x00. -/
def Memory.risingFrom (lo : Nat) : List Host.Cell → Bool
  | [] => true
  | (a, v) :: m => lo ≤ a && a < Config.capacity && v != 0 && Memory.risingFrom (a + 1) m

/-- The canonical form of the window's list (R21: indices `0` to `C − 1`; R34: 0x00 where unlisted). -/
def Memory.wf (m : List Host.Cell) : Bool := Memory.risingFrom 0 m

/-! ### The response channel -/

/-- `respond(v)`: one response on the response channel (R13, R66). -/
def State.respond (s : State) (v : Response) : State :=
  { s with responses := s.responses ++ [v] }

/-! ### FEED -/

/-- Step 1 of FEED, `W[wp] <- b; wp <- (wp + 1) mod C` (R40, R72). -/
def State.appendByte (s : State) (b : Byte) : State :=
  { s with
    window := writeCell s.window s.wp.toNat b
    wp := BitVec.ofNat 8 ((s.wp.toNat + 1) % Config.capacity) }

/-- Step 2 of FEED (R73): count the byte; a count that exceeds `MAXLEN` is clamped to it and sync is
lost.  That the new count is compared before it is cut to 8 bits is DEDUCED (log entry 8). -/
def State.countByte (s : State) : State :=
  if maxLen s.rev < s.cnt.toNat + 1 then
    { s with cnt := BitVec.ofNat 8 (maxLen s.rev), sync := .OutOfSync }
  else { s with cnt := BitVec.ofNat 8 (s.cnt.toNat + 1) }

/-- `slot[t] <- some(r)` for a record of type `t`; the other two slots are unchanged (R81). -/
def State.putRecord (s : State) (r : Record) : State :=
  match r with
  | .quaternion q => { s with slotQ := some q }
  | .sensor q => { s with slotS := some q }
  | .battery q => { s with slotB := some q }

/-- `cnt <- 0; wp <- 0; sync <- InSync`: the state update of a decode; no window byte changes (R80,
R82). -/
def State.lock (s : State) : State :=
  { s with cnt := 0, wp := 0, sync := .InSync }

/-- A decode of type `t`: the record of the candidate window goes to its mailbox, and the origin moves
(R79 to R81). -/
def State.decodeType (s : State) (t : PacketType) : State :=
  (s.putRecord (s.decodeRecord t (s.candidateStart t))).lock

/-- The attempt for one type (R74): a failed test changes nothing (R85). -/
def State.attempt (s : State) (t : PacketType) : State :=
  if s.passes t then s.decodeType t else s

/-- Step 3 of FEED: every type in priority order, going on after a decode as the pseudocode does (R71,
R74, D29). -/
def State.matchTypes (s : State) : State :=
  priorityOrder.foldl State.attempt s

/-- Steps 1 and 2 of FEED: the state its match procedure sees (R72, R73). -/
def State.receiveByte (s : State) (b : Byte) : State :=
  (s.appendByte b).countByte

/-- FEED (R71): append, count, match, `Ack`. -/
def State.feedByte (s : State) (b : Byte) : State :=
  (s.receiveByte b).matchTypes.respond .ack

/-- The bytes of a group, one FEED after another (R69, R88). -/
def State.feedBytes (s : State) (bytes : List Byte) : State :=
  bytes.foldl State.feedByte s

/-! ### TAKE, PEEK and STATUS -/

/-- `slot[t] <- none` (R93). -/
def State.clearSlot (s : State) : PacketType → State
  | .Q => { s with slotQ := none }
  | .S => { s with slotS := none }
  | .B => { s with slotB := none }

/-- The response of TAKE to what the mailbox held (R66, R93). -/
def takeResponse : Option Record → Response
  | some r => .record r
  | none => .empty

/-- TAKE (R93): return the mailbox and clear it, in one step. -/
def State.take (s : State) (t : PacketType) : State :=
  (s.clearSlot t).respond (takeResponse (s.slot t))

/-- PEEK (R97): the ready flag; no state of the block changes. -/
def State.peek (s : State) (t : PacketType) : State :=
  s.respond (.flag (s.ready t))

/-- STATUS (R101): the status word; no state of the block changes. -/
def State.readStatus (s : State) : State :=
  s.respond (.status s.statusWord)

/-! ### Reset and the command channel -/

/-- Whether the block accepts a command: not while `rst` is asserted, and not at power-up (R121). -/
def State.acceptsCommands (s : State) : Bool := !s.rst && !s.awaitingReset

/-- What deasserting `rst` leaves (R34, R121): every piece of the block's state at its reset value, the
revision as configured for the whole run (R122).  The host's side of the channels is not the block's. -/
def State.resetBlock (s : State) : State :=
  { State.fresh s.rev with pending := s.pending, responses := s.responses }

/-- The block's own outcome of an illegal command word: no state change, and the response
`Illegal(c)` (R106). -/
def State.respondIllegal (s : State) (c : CmdWord) : State :=
  s.respond (.illegal c)

/-- What a step does with a unit that decodes to no instruction.  An illegal command word is a fault
of the host (R107).  A group of bytes that is no frame is still stream bytes: the block consumes them
one by one (R108). -/
def State.consumeUndecoded (s : State) (x : Encoded) : Host.Outcome State Fault Refusal :=
  match x with
  | .word c => .fault (.illegalCommand c)
  | .burst bytes => .next (s.feedBytes bytes)

end Sys2Proof.Machine
end

