-- ==== Sys2Proof/Machine/Control.lean ====
section
/-! DEFINITION. The meanings of NOP and STATUS (R101, R102). -/

namespace Sys2Proof.Machine

/-- NOP: `Ack`, and nothing else; `cnt` does not advance (R102). -/
def execNop (s : State) : Host.Outcome State Fault Refusal :=
  .next (s.respond .ack)

/-- STATUS (R101). -/
def execStatus (s : State) : Host.Outcome State Fault Refusal :=
  .next s.readStatus

end Sys2Proof.Machine
end

