-- ==== Sys2Proof/Machine/Feed.lean ====
section
/-! DEFINITION. The meaning of FEED (R71). -/

namespace Sys2Proof.Machine

/-- FEED b: consume one stream byte (R71). -/
def execFeed (b : Byte) (s : State) : Host.Outcome State Fault Refusal :=
  .next (s.feedByte b)

end Sys2Proof.Machine
end

