-- ==== Sys2Proof/Machine/Frames.lean ====
section
/-! DEFINITION. The meanings of the six frame formats (R58, R69, R70): the block consumes the frame's
bytes one FEED after another.  Whether it decodes a record from them is FEED's own match procedure, so
a frame of the other revision, or with a wrong checksum, is consumed like any bytes (R92, R108). -/

namespace Sys2Proof.Machine

/-- FRAME.Q.WC: a Quaternion frame with counter, 11 bytes. -/
def execFrameQWC (f : QuaternionFields) (ctr k : Byte) (s : State) :
    Host.Outcome State Fault Refusal :=
  .next (s.feedBytes (frameBytes .Q f.bytes (some ctr) k))

/-- FRAME.Q.NC: a Quaternion frame without counter, 10 bytes. -/
def execFrameQNC (f : QuaternionFields) (k : Byte) (s : State) :
    Host.Outcome State Fault Refusal :=
  .next (s.feedBytes (frameBytes .Q f.bytes none k))

/-- FRAME.S.WC: a Sensor frame with counter, 21 bytes. -/
def execFrameSWC (f : SensorFields) (ctr k : Byte) (s : State) :
    Host.Outcome State Fault Refusal :=
  .next (s.feedBytes (frameBytes .S f.bytes (some ctr) k))

/-- FRAME.S.NC: a Sensor frame without counter, 20 bytes. -/
def execFrameSNC (f : SensorFields) (k : Byte) (s : State) :
    Host.Outcome State Fault Refusal :=
  .next (s.feedBytes (frameBytes .S f.bytes none k))

/-- FRAME.B.WC: a Battery frame with counter, 5 bytes. -/
def execFrameBWC (f : BatteryFields) (ctr k : Byte) (s : State) :
    Host.Outcome State Fault Refusal :=
  .next (s.feedBytes (frameBytes .B f.bytes (some ctr) k))

/-- FRAME.B.NC: a Battery frame without counter, 4 bytes. -/
def execFrameBNC (f : BatteryFields) (k : Byte) (s : State) :
    Host.Outcome State Fault Refusal :=
  .next (s.feedBytes (frameBytes .B f.bytes none k))

end Sys2Proof.Machine
end

