-- ==== Sys2Proof/Machine/Mailbox.lean ====
section
/-! DEFINITION. The meanings of the mailbox commands (R93 to R100). -/

namespace Sys2Proof.Machine

/-- TAKE.Q (R94). -/
def execTakeQ (s : State) : Host.Outcome State Fault Refusal :=
  .next (s.take .Q)

/-- TAKE.S (R95). -/
def execTakeS (s : State) : Host.Outcome State Fault Refusal :=
  .next (s.take .S)

/-- TAKE.B (R96). -/
def execTakeB (s : State) : Host.Outcome State Fault Refusal :=
  .next (s.take .B)

/-- PEEK.Q (R98). -/
def execPeekQ (s : State) : Host.Outcome State Fault Refusal :=
  .next (s.peek .Q)

/-- PEEK.S (R99). -/
def execPeekS (s : State) : Host.Outcome State Fault Refusal :=
  .next (s.peek .S)

/-- PEEK.B (R100). -/
def execPeekB (s : State) : Host.Outcome State Fault Refusal :=
  .next (s.peek .B)

end Sys2Proof.Machine
end

