-- ==== Sys2Proof/Machine/Dispatch.lean ====
section
/-! DEFINITION. The meaning of an instruction, one arm per constructor of `Instr`. -/

namespace Sys2Proof.Machine

def exec (i : Instr) (s : State) : Host.Outcome State Fault Refusal :=
  match i with
  | .nop => Sys2Proof.Machine.execNop s
  | .feed b => Sys2Proof.Machine.execFeed b s
  | .takeQ => Sys2Proof.Machine.execTakeQ s
  | .takeS => Sys2Proof.Machine.execTakeS s
  | .takeB => Sys2Proof.Machine.execTakeB s
  | .peekQ => Sys2Proof.Machine.execPeekQ s
  | .peekS => Sys2Proof.Machine.execPeekS s
  | .peekB => Sys2Proof.Machine.execPeekB s
  | .status => Sys2Proof.Machine.execStatus s
  | .frameQWC f ctr k => Sys2Proof.Machine.execFrameQWC f ctr k s
  | .frameQNC f k => Sys2Proof.Machine.execFrameQNC f k s
  | .frameSWC f ctr k => Sys2Proof.Machine.execFrameSWC f ctr k s
  | .frameSNC f k => Sys2Proof.Machine.execFrameSNC f k s
  | .frameBWC f ctr k => Sys2Proof.Machine.execFrameBWC f ctr k s
  | .frameBNC f k => Sys2Proof.Machine.execFrameBNC f k s

end Sys2Proof.Machine
end

