-- ==== Sys2Proof/Machine/Step.lean ====
section
/-! DEFINITION. One step of the machine: the host's next event.  The block fetches nothing (R19): what it
runs next is what the host offers next (R14, R50). -/

namespace Sys2Proof.Machine

/-- The block accepts an offered unit: it runs the instruction the unit decodes to. -/
def accept (x : Encoded) (s : State) : Host.Outcome State Fault Refusal :=
  match decode x with
  | .ok i => exec i s
  | .error _ => s.consumeUndecoded x

/-- One step.  With no event pending the block is idle and holds its state (R115, R119).  A unit
offered while `rst` is asserted, or at power-up before the first reset, is not accepted: no state
changes and nothing answers (R121).  Deasserting `rst` leaves the reset state; if it was not asserted,
nothing happens. -/
def step (s : State) : Host.Outcome State Fault Refusal :=
  match s.pending with
  | [] => .next s
  | .assertRst :: es => .next { s with pending := es, rst := true }
  | .deassertRst :: es =>
    .next (if s.rst then State.resetBlock { s with pending := es } else { s with pending := es })
  | .offer x :: es =>
    if s.acceptsCommands then accept x { s with pending := es } else .next { s with pending := es }

/-- `s` with the unit of an opcode-table row as the host's next event, in a block that accepts it: `rst`
deasserted, and reset since power-up. -/
def State.withFetchWord (s : State) (nbits w : Nat) : State :=
  { s with
    rst := false
    awaitingReset := false
    pending := .offer (tableUnit nbits w) :: s.pending }

end Sys2Proof.Machine
end

