-- ==== Sys2Proof/WellFormed.lean ====
section
/-! DEFINITION. Well-formed instructions: every command, and every frame whose checksum byte is the XOR
of the bytes before it (R61). -/

namespace Sys2Proof

/-- A frame is well formed when its bytes, the checksum byte included, XOR to 0x00 (R61); every
command is well formed. -/
def Instr.wellFormed : Instr → Bool
  | .nop | .feed _ | .takeQ | .takeS | .takeB | .peekQ | .peekS | .peekB | .status => true
  | .frameQWC f ctr k => xorBytes (frameBytes .Q f.bytes (some ctr) k) == 0
  | .frameQNC f k => xorBytes (frameBytes .Q f.bytes none k) == 0
  | .frameSWC f ctr k => xorBytes (frameBytes .S f.bytes (some ctr) k) == 0
  | .frameSNC f k => xorBytes (frameBytes .S f.bytes none k) == 0
  | .frameBWC f ctr k => xorBytes (frameBytes .B f.bytes (some ctr) k) == 0
  | .frameBNC f k => xorBytes (frameBytes .B f.bytes none k) == 0

end Sys2Proof
end

