-- ==== Sys2Proof/Machine/Assembler.lean ====
section
/-! DEFINITION. The assembler's syntax and its pseudo-instructions (R68, R69): from lines of text to the
command words of a listing.  The block takes no part in it.  What R68 and R69 leave open of the text is
the model's choice, DESIGN CHOICE, and listed in log entry 16. -/

namespace Sys2Proof.Assembler

/-! ### Pseudo-instructions (R69) -/

/-- A FEED of one byte as a command word. -/
def feedWord (b : Byte) : CmdWord := cmdWord 0x1 b

/-- The command words an instruction stands for: its own, or a FEED of each byte of a frame. -/
def words (i : Instr) : List CmdWord :=
  match encode i with
  | .word c => [c]
  | .burst bytes => bytes.map feedWord

/-- `k`, the XOR of all earlier bytes of the frame (R61, R69). -/
def checksumByte (t : PacketType) (payload : List Byte) (counter : Option Byte) : Byte :=
  xorBytes (frameBytes t payload counter 0)

/-- `SENDQ`: `ctr` is present if and only if `REV = WC`. -/
def sendQ (rev : Rev) (f : QuaternionFields) (counter : Option Byte) : Option Instr :=
  match rev, counter with
  | .WC, some c => some (.frameQWC f c (checksumByte .Q f.bytes (some c)))
  | .NC, none => some (.frameQNC f (checksumByte .Q f.bytes none))
  | .WC, none => none
  | .NC, some _ => none

/-- `SENDS`, as for SENDQ. -/
def sendS (rev : Rev) (f : SensorFields) (counter : Option Byte) : Option Instr :=
  match rev, counter with
  | .WC, some c => some (.frameSWC f c (checksumByte .S f.bytes (some c)))
  | .NC, none => some (.frameSNC f (checksumByte .S f.bytes none))
  | .WC, none => none
  | .NC, some _ => none

/-- `SENDB`, as for SENDQ. -/
def sendB (rev : Rev) (f : BatteryFields) (counter : Option Byte) : Option Instr :=
  match rev, counter with
  | .WC, some c => some (.frameBWC f c (checksumByte .B f.bytes (some c)))
  | .NC, none => some (.frameBNC f (checksumByte .B f.bytes none))
  | .WC, none => none
  | .NC, some _ => none

/-- `DRAIN`. -/
def drain : List Instr := [.takeQ, .takeS, .takeB]

/-! ### Operands (R68) -/

/-- A digit of a base up to 16. -/
def digit (base : Nat) (c : Char) : Option Nat :=
  let n := c.toNat
  let v := if 48 ≤ n ∧ n ≤ 57 then some (n - 48)
    else if 65 ≤ n ∧ n ≤ 70 then some (n - 55)
    else if 97 ≤ n ∧ n ≤ 102 then some (n - 87)
    else none
  v.filter (· < base)

/-- The digits of a number after the value `acc` of those before them. -/
def digits (base acc : Nat) : List Char → Option Nat
  | [] => some acc
  | c :: cs =>
    match digit base c with
    | some d => digits base (acc * base + d) cs
    | none => none

/-- A hexadecimal number with `0x` and any count of digits, or a decimal one (DESIGN CHOICE, log entry
16, for the count of digits). -/
def number : List Char → Option Nat
  | '0' :: 'x' :: c :: cs => digits 16 0 (c :: cs)
  | c :: cs => digits 10 0 (c :: cs)
  | [] => none

/-- A byte operand: `0xNN`, a decimal `0..255`, or a character literal for its ASCII code (R68, G2).
R68 gives these notations for FEED; that FEEDS and the counter of a SEND take them too, and that a byte
out of range or a character outside ASCII has no value, is a DESIGN CHOICE (log entry 16). -/
def byteOperand : List Char → Option Byte
  | ['\'', c, '\''] => if c.toNat < 128 then some (BitVec.ofNat 8 c.toNat) else none
  | cs =>
    match number cs with
    | some n => if n < 256 then some (BitVec.ofNat 8 n) else none
    | none => none

/-- A 16-bit operand, taken modulo 2^16, two's complement when negative (R69).  R69 gives it no notation:
that it is a decimal or a hexadecimal number with an optional minus is a DESIGN CHOICE (log entry 16). -/
def fieldOperand : List Char → Option S16
  | '-' :: cs => (number cs).map fun n => BitVec.ofInt 16 (-(n : Int))
  | cs => (number cs).map (BitVec.ofNat 16)

/-- All of a list of operands, or none. -/
def operands {α : Type} (f : List Char → Option α) : List (List Char) → Option (List α)
  | [] => some []
  | t :: ts =>
    match f t, operands f ts with
    | some a, some as => some (a :: as)
    | _, _ => none

/-- The payload fields of a pseudo-instruction and, after them, the counter operand if it is there (R69).
The notation of both is a DESIGN CHOICE (log entry 16): a field as `fieldOperand` reads it, the counter
as `byteOperand` does, so not reduced modulo 2^8, and a line with a counter out of range has no words. -/
def sendOperands (n : Nat) (ts : List (List Char)) : Option (List S16 × Option Byte) :=
  match operands fieldOperand (ts.take n), ts.drop n with
  | some fs, [] => some (fs, none)
  | some fs, [t] => (byteOperand t).map fun c => (fs, some c)
  | _, _ => none

/-! ### Lines (R68) -/

/-- The token read so far, unless it is empty. -/
def flush (cur : List Char) : List (List Char) := if cur.isEmpty then [] else [cur]

/-- The tokens of a line: separated by blanks and commas, up to a comment; a character literal is one
token, whatever its character. -/
def tokens (cur : List Char) : List Char → List (List Char)
  | [] => flush cur
  | '\'' :: c :: '\'' :: cs => tokens (cur ++ ['\'', c, '\'']) cs
  | ';' :: _ => flush cur
  | c :: cs =>
    if c = ' ' ∨ c = '\t' ∨ c = ',' then flush cur ++ tokens [] cs else tokens (cur ++ [c]) cs

/-- The mnemonics without an operand. -/
def plainMnemonics : List (List Char × Instr) :=
  [(['N', 'O', 'P'], .nop), (['T', 'A', 'K', 'E', '.', 'Q'], .takeQ),
   (['T', 'A', 'K', 'E', '.', 'S'], .takeS), (['T', 'A', 'K', 'E', '.', 'B'], .takeB),
   (['P', 'E', 'E', 'K', '.', 'Q'], .peekQ), (['P', 'E', 'E', 'K', '.', 'S'], .peekS),
   (['P', 'E', 'E', 'K', '.', 'B'], .peekB), (['S', 'T', 'A', 'T', 'U', 'S'], .status)]

/-- The command words of a line without its label (R68, R69).  R68 gives `.word` as `.word 0xNNN`; that
its operand may also be a decimal number, and that a value above 0xFFF has no words, is a DESIGN CHOICE
(log entry 16), as is that any line the forms below do not cover has none. -/
def statementWords (rev : Rev) : List (List Char) → Option (List CmdWord)
  | [] => some []
  | ['F', 'E', 'E', 'D'] :: [t] => (byteOperand t).map fun b => [feedWord b]
  | ['F', 'E', 'E', 'D', 'S'] :: ts => (operands byteOperand ts).map (List.map feedWord)
  | ['.', 'w', 'o', 'r', 'd'] :: [t] =>
    match number t with
    | some n => if n < 4096 then some [BitVec.ofNat 12 n] else none
    | none => none
  | ['S', 'E', 'N', 'D', 'Q'] :: ts =>
    match sendOperands 4 ts with
    | some ([w, x, y, z], c) => (sendQ rev ⟨w, x, y, z⟩ c).map words
    | _ => none
  | ['S', 'E', 'N', 'D', 'S'] :: ts =>
    match sendOperands 9 ts with
    | some ([a, b, c, d, e, f, g, h, i], ctr) => (sendS rev ⟨a, b, c, d, e, f, g, h, i⟩ ctr).map words
    | _ => none
  | ['S', 'E', 'N', 'D', 'B'] :: ts =>
    match sendOperands 1 ts with
    | some ([v], c) => (sendB rev ⟨v⟩ c).map words
    | _ => none
  | [['D', 'R', 'A', 'I', 'N']] => some (drain.flatMap words)
  | [m] => (plainMnemonics.lookup m).map words
  | _ => none

/-- The command words of a line; a label in front of it has no meaning to the block. -/
def lineWords (rev : Rev) (line : List Char) : Option (List CmdWord) :=
  match tokens [] line with
  | t :: ts => statementWords rev (if t.getLast? = some ':' then ts else t :: ts)
  | [] => some []

/-- The command words of a listing, one line after another. -/
def listingWords (rev : Rev) : List (List Char) → Option (List CmdWord)
  | [] => some []
  | l :: ls =>
    match lineWords rev l, listingWords rev ls with
    | some ws, some rest => some (ws ++ rest)
    | _, _ => none

end Sys2Proof.Assembler
end

