-- ==== Sys2Proof/Machine/Block.lean ====
section
/-! DEFINITION. The block's own behaviour on every event, illegal command words among them (R106): what
the hardware does where `step` stops because the spec tells a model to (R107). -/

namespace Sys2Proof.Machine

/-- One step of the block itself.  It differs from `step` only at an illegal command word: the block
answers `Illegal(c)`, changes no state and goes on to the next event (R106). -/
def blockStep (s : State) : State :=
  match step s with
  | .next t => t
  | .fault (.illegalCommand c) => State.respondIllegal { s with pending := s.pending.tail } c
  | .refused _ => s

/-- `n` steps of the block itself. -/
def blockRun : Nat → State → State
  | 0, s => s
  | n + 1, s => blockRun n (blockStep s)

end Sys2Proof.Machine
end

