-- ==== Sys2Proof/Safety.lean ====
section
/-! DEFINITION. What claims are stated in: the invariant of the block's state (R31, R32), runs and
faulted runs (R125), what a later command can see of a state (R33), and the candidate windows inside a
group of bytes (R136). -/

namespace Sys2Proof.Machine

/-- Every mailbox holds a record of the shape the revision gives it: with a counter exactly when
`REV = WC` (R59). -/
def State.slotsMatchRev (s : State) : Bool :=
  [PacketType.Q, .S, .B].all fun t =>
    match s.slot t with
    | some r => r.counter.isSome == hasCounter s.rev
    | none => true

/-- The invariant of the block between commands: the window's list is canonical, `cnt ≤ MAXLEN` (R31),
InSync implies `wp = cnt` and `wp ≤ MAXLEN` (R32), and the records have the revision's shape (R59). -/
abbrev State.Inv (s : State) : Prop :=
  Memory.wf s.window = true ∧ s.cnt.toNat ≤ maxLen s.rev ∧
    (s.sync = .InSync → s.wp = s.cnt ∧ s.wp.toNat ≤ maxLen s.rev) ∧ s.slotsMatchRev = true

/-- A list of instructions one after another, stopping at the first fault or refusal. -/
def execAll : List Instr → State → Host.Outcome State Fault Refusal
  | [], s => .next s
  | i :: is, s =>
    match exec i s with
    | .next t => execAll is t
    | .fault r => .fault r
    | .refused r => .refused r

/-- The event offers no illegal command word (R65). -/
def legalEvent : HostEvent → Bool
  | .offer (.word c) =>
    match decode (.word c) with
    | .ok _ => true
    | .error _ => false
  | .offer (.burst _) | .assertRst | .deassertRst => true

/-- `n` steps, stopping at the first fault or refusal (R125). -/
def run : Nat → State → Host.Outcome State Fault Refusal
  | 0, s => .next s
  | n + 1, s =>
    match step s with
    | .next t => run n t
    | .fault r => .fault r
    | .refused r => .refused r

/-- The two states agree in all a command can observe: everything but the window bytes at `wp` and
above (R33). -/
def State.SameButStale (s t : State) : Prop :=
  { s with window := [] } = { t with window := [] } ∧
    ∀ i, i < s.wp.toNat → s.windowByte i = t.windowByte i

/-- The candidate window of type `t` that ends just below position `n` of a group of bytes starts with
the tag of `t` and XORs to zero (R136). -/
def windowPasses (rev : Rev) (bytes : List Byte) (n : Nat) (t : PacketType) : Bool :=
  decide (frameLen rev t ≤ n) && decide (n ≤ bytes.length) &&
    bytes[n - frameLen rev t]? == some (tag t) &&
    xorBytes ((bytes.drop (n - frameLen rev t)).take (frameLen rev t)) == 0

/-- The types tried before `t` (R74). -/
def earlierTypes : PacketType → List PacketType
  | .Q => []
  | .S => [.Q]
  | .B => [.Q, .S]

/-- The type the FEED of `b` in state `s` decodes, if any: the first whose attempt succeeds after steps
1 and 2 (R72 to R74). -/
def State.decodedBy (s : State) (b : Byte) : Option PacketType :=
  (s.receiveByte b).firstPassing

/-- TAKE, by its type (R93). -/
def takeInstr : PacketType → Instr
  | .Q => .takeQ
  | .S => .takeS
  | .B => .takeB

/-- PEEK, by its type (R97). -/
def peekInstr : PacketType → Instr
  | .Q => .peekQ
  | .S => .peekS
  | .B => .peekB

/-- The instruction is a command of the command channel, not a frame (R64, R70). -/
def isCommand (i : Instr) : Bool :=
  match encode i with
  | .word _ => true
  | .burst _ => false

end Sys2Proof.Machine
end

