-- ==== Sys2Proof/Certificates/Slice0/Obligations.lean ====
section
/-! DEFINITION. The statements for the provers. -/

open Sys2Proof Sys2Proof.Machine

/-! ### Encodings (R54 to R65) -/

/-- O1. Words and frames written out from R64, R57 and R58 decode to what they stand for.  The frames
are vectors V3 and V7. -/
def Obligations.SpecEncodingsDecode : Prop :=
  decode (.word 0b000000000000) = .ok .nop ∧
  decode (.word 0b000101010001) = .ok (.feed 0x51) ∧
  decode (.word 0b001000000000) = .ok .takeQ ∧
  decode (.word 0b001000000001) = .ok .takeS ∧
  decode (.word 0b001000000010) = .ok .takeB ∧
  decode (.word 0b001100000000) = .ok .peekQ ∧
  decode (.word 0b001100000001) = .ok .peekS ∧
  decode (.word 0b001100000010) = .ok .peekB ∧
  decode (.word 0b010000000000) = .ok .status ∧
  decode (.burst [0x42, 0x0E, 0x74, 0x07, 0x3F]) = .ok (.frameBWC ⟨3700⟩ 7 0x3F) ∧
  decode (.burst [0x42, 0x0E, 0x74, 0x38]) = .ok (.frameBNC ⟨3700⟩ 0x38)

/-- O2. Decoding an encoded instruction gives it back, with every operand: commands (R64) and frames,
well formed or not (R57). -/
def Obligations.DecodeAfterEncode : Prop :=
  ∀ i : Instr, decode (encode i) = .ok i

/-- O3. A command word or a group of bytes that decodes is the encoding of what it decodes to: no two
units stand for one instruction (R57, R64). -/
def Obligations.EncodeAfterDecode : Prop :=
  ∀ (x : Encoded) (i : Instr), decode x = .ok i → encode i = x

/-- O4. R65 whole: exactly the listed words are illegal, 264 words are legal, and the block answers an
illegal word with `Illegal` and changes no state. -/
def Obligations.IllegalWordsAreExactlyThose : Prop :=
  (∀ c : CmdWord,
    (∃ r, decode (.word c) = .error r) ↔
      (5 ≤ c.toNat / 256 ∨
        ((c.toNat / 256 = 0 ∨ c.toNat / 256 = 4) ∧ c.toNat % 256 ≠ 0) ∨
        ((c.toNat / 256 = 2 ∨ c.toNat / 256 = 3) ∧ c.toNat % 256 / 4 ≠ 0) ∨
        ((c.toNat / 256 = 2 ∨ c.toNat / 256 = 3) ∧ c.toNat % 4 = 3))) ∧
  ((List.range 4096).filter fun n => (decode (.word (BitVec.ofNat 12 n))).isOk).length = 264 ∧
  (∀ (s : State) (c : CmdWord) (es : List HostEvent) (r : Reject),
    s.pending = .offer (.word c) :: es → s.rst = false → s.awaitingReset = false → decode (.word c) = .error r →
      blockStep s = { s with pending := es, responses := s.responses ++ [.illegal c] })

/-- O5. The frame lengths of R58: the formula, the six values and `MAXLEN`. -/
def Obligations.FrameLengths : Prop :=
  (∀ rev t, frameLen rev t = 1 + 2 * fieldCount t + (if rev = .WC then 1 else 0) + 1) ∧
  frameLen .WC .Q = 11 ∧ frameLen .NC .Q = 10 ∧
  frameLen .WC .S = 21 ∧ frameLen .NC .S = 20 ∧
  frameLen .WC .B = 5 ∧ frameLen .NC .B = 4 ∧
  maxLen .WC = 21 ∧ maxLen .NC = 20

/-- O6. R61: a frame is correct when its last byte is the XOR of every earlier byte, and then it reduces
to zero over all its `LEN(REV, t)` bytes. -/
def Obligations.CorrectFrameReducesToZero : Prop :=
  ∀ (i : Instr) (bytes : List Byte), encode i = .burst bytes →
    (i.wellFormed = true ↔ bytes.getLastD 0 = xorBytes bytes.dropLast) ∧
    (i.wellFormed = true ↔ xorBytes bytes = 0) ∧
    (∀ rev r, i.frameRecord = some (rev, r) → bytes.length = frameLen rev r.type)

/-- O7. The pseudo-instructions SENDQ, SENDS and SENDB of R69: they exist exactly with a counter in
revision WC and without one in NC, and are the FEEDs of a correct frame that carries the fields. -/
def Obligations.SendIsFeedsOfCorrectFrame : Prop :=
  (∀ rev f ctr, (Assembler.sendQ rev f ctr).isSome = true ↔ (ctr.isSome = true ↔ rev = .WC)) ∧
  (∀ rev f ctr, (Assembler.sendS rev f ctr).isSome = true ↔ (ctr.isSome = true ↔ rev = .WC)) ∧
  (∀ rev f ctr, (Assembler.sendB rev f ctr).isSome = true ↔ (ctr.isSome = true ↔ rev = .WC)) ∧
  (∀ rev f ctr i, Assembler.sendQ rev f ctr = some i →
    i.wellFormed = true ∧ i.frameRecord = some (rev, .quaternion ⟨f, ctr⟩)) ∧
  (∀ rev f ctr i, Assembler.sendS rev f ctr = some i →
    i.wellFormed = true ∧ i.frameRecord = some (rev, .sensor ⟨f, ctr⟩)) ∧
  (∀ rev f ctr i, Assembler.sendB rev f ctr = some i →
    i.wellFormed = true ∧ i.frameRecord = some (rev, .battery ⟨f, ctr⟩)) ∧
  (∀ i bytes, encode i = .burst bytes →
    Assembler.words i = bytes.map fun b => (0x100 : CmdWord) + b.setWidth 12)

/-! ### Steps, reset and the invariant -/

/-- O8. A step runs the unit it is offered: as `exec` of what the unit decodes to, at the state without that
event.  For a command word this is R14 and R50, one command per step.  For a group of bytes that decodes
to a frame, that one step runs the whole frame is the model's choice (log entry 2; O31 says it is the run
of its FEED steps).  That what the host offers stands in a list in the state is that of log entry 3. -/
def Obligations.StepRunsDecodedInstruction : Prop :=
  ∀ (s : State) (x : Encoded) (es : List HostEvent) (i : Instr),
    s.pending = .offer x :: es → s.rst = false → s.awaitingReset = false → decode x = .ok i →
      step s = exec i { s with pending := es }

/-- O9. With nothing offered the block holds its state for any number of steps (R115, R119). -/
def Obligations.IdleHoldsState : Prop :=
  ∀ (n : Nat) (s : State), s.pending = [] → run n s = .next s

/-- O10. The reset input (R121): while it is asserted no command is accepted, whatever the word, and
deasserting it leaves every piece of the block's state at its reset value (R34), the revision as it was
(R122).

Four clauses are the model's choice (log entry 5), no rule of the spec: that asserting `rst` changes
nothing but the input itself, so that the window, `wp`, `cnt`, `sync` and the mailboxes keep their values
while it is asserted; that a unit offered meanwhile is gone; that deasserting an input that is not
asserted changes nothing; and that the host's events to come and the responses survive a reset. -/
def Obligations.ResetInput : Prop :=
  (∀ (s : State) (es : List HostEvent), s.pending = .assertRst :: es →
    step s = .next { s with pending := es, rst := true }) ∧
  (∀ (s : State) (x : Encoded) (es : List HostEvent), s.pending = .offer x :: es → s.rst = true →
    step s = .next { s with pending := es }) ∧
  (∀ (s : State) (es : List HostEvent), s.pending = .deassertRst :: es → s.rst = true →
    ∃ t, step s = .next t ∧ (∀ i, t.windowByte i = 0) ∧ t.wp = 0 ∧ t.cnt = 0 ∧
      t.sync = .OutOfSync ∧ (∀ p, t.slot p = none) ∧ t.rev = s.rev ∧ t.rst = false ∧
      t.awaitingReset = false ∧ t.pending = es ∧ t.responses = s.responses) ∧
  (∀ (s : State) (es : List HostEvent), s.pending = .deassertRst :: es → s.rst = false →
    step s = .next { s with pending := es })

/-- O11. The reset values of R34, the status word's among them; the revision is the configured one, and a
reset does not change it. -/
def Obligations.ResetValues : Prop :=
  (∀ i, State.reset.windowByte i = 0) ∧ State.reset.wp = 0 ∧ State.reset.cnt = 0 ∧
  State.reset.sync = .OutOfSync ∧ State.reset.slotQ = none ∧ State.reset.slotS = none ∧
  State.reset.slotB = none ∧ State.reset.rev = Config.rev ∧
  (State.reset.rev = .NC → State.reset.statusWord = 0x00000000) ∧
  (State.reset.rev = .WC → State.reset.statusWord = 0x00000010) ∧
  (∀ s : State, s.resetBlock.rev = s.rev)

/-- O12. The invariant holds at reset (R31, R32, R34). -/
def Obligations.InvariantHoldsAtReset : Prop :=
  State.reset.Inv

/-- O13. Every step keeps the invariant: `cnt ≤ MAXLEN` (R31), InSync implies `wp = cnt ≤ MAXLEN` and so
`wp` does not wrap (R32), the window's list stays canonical, and every record has the revision's shape
(R59). -/
def Obligations.StepKeepsInvariant : Prop :=
  (∀ s t : State, s.Inv → step s = .next t → t.Inv) ∧
  (∀ s : State, s.Inv → s.sync = .InSync → s.wp.toNat + 1 < 256)

/-- O14. No step changes the revision (R122). -/
def Obligations.NoStepChangesRevision : Prop :=
  ∀ s t : State, step s = .next t → t.rev = s.rev

/-- O15. A run whose words are all legal is never faulted, however long and from whatever state: FEED
never fails and no legal command raises an exception (R105, R114). -/
def Obligations.LegalRunsNeverStop : Prop :=
  ∀ (n : Nat) (s : State), s.pending.all legalEvent = true → ∃ t, run n s = .next t

/-- O16. An illegal word faults the run, and no longer run leaves the faulted state (R107, R125). -/
def Obligations.IllegalWordFaultsTheRun : Prop :=
  ∀ (s : State) (c : CmdWord) (es : List HostEvent) (r : Reject),
    s.pending = .offer (.word c) :: es → s.rst = false → s.awaitingReset = false → decode (.word c) = .error r →
      ∀ n, run (n + 1) s = .fault (.illegalCommand c)

/-- O17. The block's own behaviour (R106): it agrees with `step` wherever `step` goes on, and an illegal
word `c` changes no state and yields `Illegal(c)`, whatever was pending after it. -/
def Obligations.BlockAnswersIllegalWord : Prop :=
  (∀ s t : State, step s = .next t → blockStep s = t) ∧
  (∀ (s : State) (c : CmdWord) (es : List HostEvent) (r : Reject),
    s.pending = .offer (.word c) :: es → s.rst = false → s.awaitingReset = false → decode (.word c) = .error r →
      blockStep s = { s with pending := es, responses := s.responses ++ [.illegal c] })

/-- O18. Two states that agree but for the window bytes at `wp` and above behave alike: the same
outcome, and states that agree in the same way (R33). -/
def Obligations.StaleBytesAreUnobservable : Prop :=
  ∀ s t : State, Memory.wf s.window = true → Memory.wf t.window = true → s.SameButStale t →
    (∀ s', step s = .next s' → ∃ t', step t = .next t' ∧ s'.SameButStale t') ∧
    (∀ f, step s = .fault f → step t = .fault f)

/-! ### FEED (R71 to R92) -/

/-- O19. Step 1 of FEED (R72): the byte goes to index `wp` and no other byte changes, the pointer
advances by one modulo `C`, and the later steps see both. -/
def Obligations.FeedAppendsAtPointer : Prop :=
  ∀ (s : State) (b : Byte), Memory.wf s.window = true →
    (∀ a, a < 256 → (s.receiveByte b).windowByte a =
      if a = s.wp.toNat then b else s.windowByte a) ∧
    (s.receiveByte b).wp.toNat = (s.wp.toNat + 1) % 256 ∧
    ∃ t, exec (.feed b) s = .next t ∧
      (∀ a, a < 256 → t.windowByte a = if a = s.wp.toNat then b else s.windowByte a) ∧
      (s.decodedBy b = none → t.wp.toNat = (s.wp.toNat + 1) % 256)

/-- O20. Step 2 of FEED: the count, its clamp and the loss of sync, as the match procedure sees them and
as a FEED without a decode leaves them.  For every `cnt` below 255, and so for every `cnt ≤ MAXLEN` of
R31, this is R73 with the `MAXLEN` of R8: 21 for WC, and 20 for NC as D10 chose.  For `cnt = 255`, which
no run from reset reaches, that the new `cnt` is 256 and is clamped is the model's inference (log entry
8): in the 8 bits of R9 it would be 0, and R73 does not say which it compares. -/
def Obligations.FeedCountsAndClamps : Prop :=
  ∀ (s : State) (b : Byte) (m : Nat), m = (match s.rev with | .WC => 21 | .NC => 20) →
    ((s.receiveByte b).cnt.toNat = if m < s.cnt.toNat + 1 then m else s.cnt.toNat + 1) ∧
    ((s.receiveByte b).sync = if m < s.cnt.toNat + 1 then .OutOfSync else s.sync) ∧
    (s.decodedBy b = none →
      ∃ t, exec (.feed b) s = .next t ∧
        (t.cnt.toNat = if m < s.cnt.toNat + 1 then m else s.cnt.toNat + 1) ∧
        (t.sync = if m < s.cnt.toNat + 1 then .OutOfSync else s.sync))

/-- O21. Step 3 of FEED (R74, R76, R77, R78): the byte decodes type `t` exactly when `t` passes the
length gate, the tag test at the position `sync` selects and the checksum of the trailing window, and no
type before it does. -/
def Obligations.FeedDecodesFirstTypeThatPasses : Prop :=
  ∀ (s : State) (b : Byte) (m : State), m = s.receiveByte b →
    ∀ pass : PacketType → Prop,
      (∀ t, pass t ↔
        (frameLen s.rev t ≤ m.wp.toNat ∧
          m.windowByte (if m.sync = .InSync then 0 else m.wp.toNat - frameLen s.rev t) = tag t ∧
          xorBytes ((List.range (frameLen s.rev t)).map fun k =>
            m.windowByte (m.wp.toNat - frameLen s.rev t + k)) = 0)) →
      (∀ t, s.decodedBy b = some t ↔ (pass t ∧ ∀ u ∈ earlierTypes t, ¬ pass u)) ∧
      (s.decodedBy b = none ↔ ∀ t, ¬ pass t)

/-- O22. Rejection (R85): where no type passes, a FEED leaves what steps 1 and 2 left, and `Ack`, with
every mailbox as it was; and a failed attempt for one type writes nothing. -/
def Obligations.FeedRejectionChangesNothing : Prop :=
  (∀ (s : State) (b : Byte), s.decodedBy b = none →
    exec (.feed b) s = .next ((s.receiveByte b).respond .ack)) ∧
  (∀ (s : State) (b : Byte), s.decodedBy b = none →
    ∃ t, exec (.feed b) s = .next t ∧ (∀ v, t.slot v = s.slot v) ∧ t.rev = s.rev ∧
      t.rst = s.rst ∧ t.awaitingReset = s.awaitingReset ∧ t.pending = s.pending ∧ t.responses = s.responses ++ [.ack]) ∧
  (∀ (m : State) (t : PacketType), m.passes t = false → m.attempt t = m)

/-- O23. A decode of type `t` (R79 to R82): the record of the trailing window goes to `slot[t]`, the
other mailboxes and the window bytes stay, `cnt` and `wp` are 0, the block is InSync, and the response
is `Ack`. -/
def Obligations.FeedDecodePublishesRecord : Prop :=
  ∀ (s : State) (b : Byte) (t : PacketType), s.decodedBy b = some t →
    ∃ u, exec (.feed b) s = .next u ∧
      u.slot t = some ((s.receiveByte b).decodeRecord t
        ((s.receiveByte b).wp.toNat - frameLen s.rev t)) ∧
      (∀ v, v ≠ t → u.slot v = s.slot v) ∧
      u.cnt = 0 ∧ u.wp = 0 ∧ u.sync = .InSync ∧ u.window = (s.receiveByte b).window ∧
      u.rev = s.rev ∧ u.rst = s.rst ∧ u.awaitingReset = s.awaitingReset ∧ u.pending = s.pending ∧
      u.responses = s.responses ++ [.ack]

/-- O24. The fields of a record (R44, R60): field `k` of the frame at index `base` is the signed 16-bit
value of the bytes at `base + 1 + 2k`, high, and `base + 2 + 2k`, low; the counter is the unsigned byte
after the fields, in revision WC only. -/
def Obligations.RecordFieldsAreBigEndianSigned : Prop :=
  ∀ (s : State) (base : Nat), ∃ f : Nat → S16, ∃ c : Nat → Option Byte,
    (∀ k, sext16 (f k) =
      (if (s.windowByte (base + 1 + 2 * k)).toNat < 128 then (0 : Int) else -65536) +
        256 * (s.windowByte (base + 1 + 2 * k)).toNat + (s.windowByte (base + 2 + 2 * k)).toNat) ∧
    (∀ k, c k = if s.rev = .WC then some (s.windowByte (base + k)) else none) ∧
    s.decodeRecord .Q base = .quaternion ⟨⟨f 0, f 1, f 2, f 3⟩, c 9⟩ ∧
    s.decodeRecord .S base = .sensor ⟨⟨f 0, f 1, f 2, f 3, f 4, f 5, f 6, f 7, f 8⟩, c 19⟩ ∧
    s.decodeRecord .B base = .battery ⟨⟨f 0⟩, c 3⟩

/-- O25. At most one decode per FEED (R83): a FEED changes at most one mailbox, and after a decode no
further attempt, of any types in any order, changes anything. -/
def Obligations.FeedDecodesAtMostOnce : Prop :=
  (∀ (s : State) (b : Byte), ∃ t u, exec (.feed b) s = .next u ∧
    ∀ v, v ≠ t → u.slot v = s.slot v) ∧
  (∀ (m : State) (t : PacketType) (ts : List PacketType),
    (∀ v, (m.decodeType t).passes v = false) ∧
    ts.foldl State.attempt (m.decodeType t) = m.decodeType t)

/-- O26. Wrap suppression (R90): the FEED that moves `wp` from `C − 1` to 0 tests nothing, and while
`wp` is below a type's frame length that type is not decoded. -/
def Obligations.WrapSuppressesDecode : Prop :=
  (∀ (s : State) (b : Byte), s.wp.toNat = 255 →
    ∃ u, exec (.feed b) s = .next u ∧ u.wp = 0 ∧ (∀ v, u.slot v = s.slot v)) ∧
  (∀ (s : State) (b : Byte) (t : PacketType), (s.wp.toNat + 1) % 256 < frameLen s.rev t →
    s.decodedBy b ≠ some t ∧ ∃ u, exec (.feed b) s = .next u ∧ u.slot t = s.slot t)

/-- O27. Loss and regain in one FEED (R91): the FEED that makes `cnt` exceed `MAXLEN` matches at the
OutOfSync position, so a frame ending at that byte is decoded and the block ends InSync. -/
def Obligations.SaturatingFeedCanRegainSync : Prop :=
  ∀ (s : State) (b : Byte) (t : PacketType) (m : State), m = s.receiveByte b →
    s.sync = .InSync → s.cnt.toNat = maxLen s.rev →
    frameLen s.rev t ≤ m.wp.toNat →
    m.windowByte (m.wp.toNat - frameLen s.rev t) = tag t →
    m.xorRange (m.wp.toNat - frameLen s.rev t) (frameLen s.rev t) = 0 →
    (∀ u ∈ earlierTypes t, frameLen s.rev u ≤ m.wp.toNat →
      m.windowByte (m.wp.toNat - frameLen s.rev u) ≠ tag u) →
    m.sync = .OutOfSync ∧
      ∃ u, exec (.feed b) s = .next u ∧ u.sync = .InSync ∧
        u.slot t = some (m.decodeRecord t (m.wp.toNat - frameLen s.rev t))

/-- O28. Padding breaks the fast path (R127): while InSync with a byte at index 0 that is no tag, and
until `cnt` exceeds `MAXLEN`, no byte completes a frame. -/
def Obligations.PaddingBlocksFastPath : Prop :=
  ∀ (s : State) (b : Byte), s.Inv → s.sync = .InSync → 0 < s.wp.toNat →
    (∀ t, s.windowByte 0 ≠ tag t) → s.cnt.toNat < maxLen s.rev →
      ∃ u, exec (.feed b) s = .next u ∧ u.sync = .InSync ∧ u.windowByte 0 = s.windowByte 0 ∧
        u.cnt.toNat = s.cnt.toNat + 1 ∧ u.wp.toNat = s.wp.toNat + 1 ∧ ∀ v, u.slot v = s.slot v

/-- O29. One wrong byte in a candidate window makes the checksum fail (R61, R78): of two states that
differ in exactly one byte of the candidate window, at most one passes. -/
def Obligations.OneWrongByteFailsChecksum : Prop :=
  ∀ (m n : State) (t : PacketType) (j : Nat),
    m.rev = n.rev → m.wp = n.wp → m.wp.toNat - frameLen m.rev t ≤ j → j < m.wp.toNat →
    m.windowByte j ≠ n.windowByte j → (∀ k, k ≠ j → k < 256 → m.windowByte k = n.windowByte k) →
      m.passes t = true → n.passes t = false

/-! ### Frames (R55 to R61, R69, R88, R136, R137) -/

/-- O30. A frame runs as its bytes fed one after another (R69, R88); that it is one instruction of the
model is the model's choice (log entry 2). -/
def Obligations.FrameIsItsFeeds : Prop :=
  ∀ (i : Instr) (bytes : List Byte) (s : State), encode i = .burst bytes →
    ∃ t, exec i s = .next t ∧ execAll (bytes.map .feed) s = .next t

/-- O31. A step on a group of bytes, a frame or not, answers what the run of one FEED step for each byte
answers (R88).  By R14 the block executes one command per step; that a group of bytes is one step at all
is the model's choice (log entry 2), and this statement says that the choice changes no state and no
response. -/
def Obligations.BurstStepIsRunOfFeedSteps : Prop :=
  ∀ (s : State) (bytes : List Byte) (es : List HostEvent),
    s.pending = .offer (.burst bytes) :: es → s.rst = false → s.awaitingReset = false →
      ∃ t, step s = .next t ∧
        run bytes.length
          { s with pending := (bytes.map fun b => .offer (encode (.feed b))) ++ es } = .next t

/-- O32. The frame of a frame instruction: `REV`, `rst` and the pending events stay, each byte is
answered with `Ack`, and the only window bytes written are those at the pointer of each of its FEEDs
(R39, R40, R66).

That a frame is one instruction is the model's choice (log entry 2; O30 says it is its FEEDs). -/
def Obligations.FrameStoresOnlyAtPointer : Prop :=
  ∀ (i : Instr) (bytes : List Byte) (s : State), encode i = .burst bytes →
    Memory.wf s.window = true →
    ∃ t, exec i s = .next t ∧ t.rev = s.rev ∧ t.rst = s.rst ∧ t.awaitingReset = s.awaitingReset ∧ t.pending = s.pending ∧
      t.responses = s.responses ++ List.replicate bytes.length .ack ∧
      ∀ a, a < 256 → (∀ k, k < bytes.length → (s.feedBytes (bytes.take k)).wp.toNat ≠ a) →
        t.windowByte a = s.windowByte a

/-- O33. The fast path (R74 to R81): a correct frame of the block's revision that starts at the origin
while InSync is delivered, whatever its payload, and leaves the block ready for the next one.

That a frame is one instruction is the model's choice (log entry 2; O30 says it is its FEEDs). -/
def Obligations.AlignedFrameIsDelivered : Prop :=
  ∀ (i : Instr) (r : Record) (bytes : List Byte) (s : State),
    i.frameRecord = some (s.rev, r) → i.wellFormed = true → encode i = .burst bytes →
    Memory.wf s.window = true → s.sync = .InSync → s.wp = 0 → s.cnt = 0 →
      ∃ t, exec i s = .next t ∧ t.slot r.type = some r ∧
        (∀ v, v ≠ r.type → t.slot v = s.slot v) ∧
        t.sync = .InSync ∧ t.wp = 0 ∧ t.cnt = 0 ∧ Memory.wf t.window = true ∧ t.rev = s.rev ∧
        (∀ a, a < 256 → t.windowByte a = (bytes[a]?).getD (s.windowByte a))

/-- O34. Any sequence of correct frames, back to back from an aligned block, is decoded: each mailbox
holds the last record of its type, and every earlier one is lost (R81, R130).

That a frame is one instruction is the model's choice (log entry 2; O30 says it is its FEEDs). -/
def Obligations.AlignedStreamIsDecoded : Prop :=
  ∀ (is : List Instr) (s : State),
    (∀ i ∈ is, i.wellFormed = true ∧ ∃ r, i.frameRecord = some (s.rev, r)) →
    Memory.wf s.window = true → s.sync = .InSync → s.wp = 0 → s.cnt = 0 →
      ∃ t, execAll is s = .next t ∧ t.sync = .InSync ∧ t.wp = 0 ∧ t.cnt = 0 ∧
        ∀ v, t.slot v =
          (((is.filterMap fun i => i.frameRecord.map Prod.snd).reverse.find? fun r =>
            r.type == v).or (s.slot v))

/-- O35. Round trip with its condition (R136): a correct frame fed byte by byte into a fresh block of its
revision leaves its record and no other exactly when no candidate window inside it passes before its last
byte and no type of earlier priority passes at its last byte. -/
def Obligations.RoundTripExactlyWhenNoWindowInside : Prop :=
  ∀ (i : Instr) (rev : Rev) (r : Record) (bytes : List Byte),
    i.frameRecord = some (rev, r) → i.wellFormed = true → encode i = .burst bytes →
      ∃ t, execAll (bytes.map .feed) (State.fresh rev) = .next t ∧
        ((t.slot r.type = some r ∧ ∀ v, v ≠ r.type → t.slot v = none) ↔
          ((∀ n v, n < bytes.length → windowPasses rev bytes n v = false) ∧
            ∀ v ∈ earlierTypes r.type, windowPasses rev bytes bytes.length v = false))

/-- O36. Resync with its condition (R137): a block that is OutOfSync with `cnt = MAXLEN`, fed a
correct frame byte by byte, decodes it at its last byte exactly when no window passes at an earlier byte
of it, it neither crosses the wrap nor ends at index `C − 1`, and no type of earlier priority passes at
its last byte; the tag position is then the frame's first byte. -/
def Obligations.ResyncExactlyUnderItsConditions : Prop :=
  ∀ (i : Instr) (r : Record) (bytes : List Byte) (s : State),
    i.frameRecord = some (s.rev, r) → i.wellFormed = true → encode i = .burst bytes →
    Memory.wf s.window = true → s.sync = .OutOfSync → s.cnt.toNat = maxLen s.rev →
      ∃ t m, execAll (bytes.map .feed) s = .next t ∧
        m = (s.feedBytes bytes.dropLast).receiveByte (bytes.getLastD 0) ∧
        (m.firstPassing = some r.type ↔
          ((∀ k b, bytes[k]? = some b → k + 1 < bytes.length →
              (s.feedBytes (bytes.take k)).decodedBy b = none) ∧
            s.wp.toNat + bytes.length < 256 ∧
            ∀ v ∈ earlierTypes r.type, m.passes v = false)) ∧
        (m.firstPassing = some r.type →
          t.slot r.type = some r ∧ t.sync = .InSync ∧ m.tagPosition r.type = s.wp.toNat)

/-! ### TAKE, PEEK, STATUS and NOP (R93 to R102) -/

/-- O37. TAKE (R93), for each of the three types: the response is what the mailbox held, the mailbox is
empty after it, and nothing else changes; a second TAKE with no FEED between returns `Empty`. -/
def Obligations.TakeReturnsAndClears : Prop :=
  encode .takeQ = .word 0x200 ∧ encode .takeS = .word 0x201 ∧ encode .takeB = .word 0x202 ∧
  ∀ (s : State) (t : PacketType), ∃ u, exec (takeInstr t) s = .next u ∧
    u.slot t = none ∧ (∀ v, v ≠ t → u.slot v = s.slot v) ∧
    u.window = s.window ∧ u.wp = s.wp ∧ u.cnt = s.cnt ∧ u.sync = s.sync ∧ u.rev = s.rev ∧
    u.rst = s.rst ∧ u.awaitingReset = s.awaitingReset ∧ u.pending = s.pending ∧
    (∀ r, s.slot t = some r → u.responses = s.responses ++ [.record r]) ∧
    (s.slot t = none → u.responses = s.responses ++ [.empty]) ∧
    exec (takeInstr t) u = .next { u with responses := u.responses ++ [.empty] }

/-- O38. PEEK (R97), for each of the three types: the ready flag, and no state of the block changes;
after `Flag(1)` a TAKE of the type returns a record, and after `Flag(0)` it returns `Empty`. -/
def Obligations.PeekReturnsReadyFlag : Prop :=
  encode .peekQ = .word 0x300 ∧ encode .peekS = .word 0x301 ∧ encode .peekB = .word 0x302 ∧
  (∀ (s : State) (t : PacketType),
    exec (peekInstr t) s =
      .next { s with responses := s.responses ++ [.flag (decide (s.slot t ≠ none))] }) ∧
  (∀ (s : State) (t : PacketType) (ready : Bool) (u : State),
    exec (peekInstr t) s = .next u → u.responses = s.responses ++ [.flag ready] →
      ∃ w v, exec (takeInstr t) u = .next w ∧ w.responses = u.responses ++ [v] ∧
        (ready = true ↔ ∃ r, v = .record r) ∧ (ready = false ↔ v = .empty))

/-- O39. STATUS (R29, R30): the status word, bit field by bit field, and no state of the block
changes. -/
def Obligations.StatusWordFields : Prop :=
  ∀ s : State, ∃ w : StatusWord,
    exec .status s = .next { s with responses := s.responses ++ [.status w] } ∧
    (w.getLsbD 0 = true ↔ s.sync = .InSync) ∧
    (w.getLsbD 1 = true ↔ s.slotQ ≠ none) ∧
    (w.getLsbD 2 = true ↔ s.slotS ≠ none) ∧
    (w.getLsbD 3 = true ↔ s.slotB ≠ none) ∧
    (w.getLsbD 4 = true ↔ s.rev = .WC) ∧
    w.extractLsb' 5 3 = 0 ∧ w.extractLsb' 8 8 = s.cnt ∧ w.extractLsb' 16 8 = s.wp ∧
    w.extractLsb' 24 8 = 0

/-- O40. NOP (R102): the word 0x000, `Ack`, and no state of the block changes. -/
def Obligations.NopOnlyAcknowledges : Prop :=
  encode .nop = .word 0x000 ∧
  ∀ s : State, exec .nop s = .next { s with responses := s.responses ++ [.ack] }

/-- O41. The level outputs (R36): each is the condition it stands for, and equals the status-word bit of
the same name. -/
def Obligations.LevelsMirrorStatusBits : Prop :=
  ∀ s : State,
    (s.levels.inSync = true ↔ s.sync = .InSync) ∧ (s.levels.readyQ = true ↔ s.slotQ ≠ none) ∧
    (s.levels.readyS = true ↔ s.slotS ≠ none) ∧ (s.levels.readyB = true ↔ s.slotB ≠ none) ∧
    s.levels.inSync = s.statusWord.getLsbD 0 ∧ s.levels.readyQ = s.statusWord.getLsbD 1 ∧
    s.levels.readyS = s.statusWord.getLsbD 2 ∧ s.levels.readyB = s.statusWord.getLsbD 3

/-! ### Rules over all commands -/

/-- O42. Every instruction answers a next state from every state: no command blocks or fails (R105,
R114, R126).

For the commands this is the rules cited; that a frame is an instruction is the model's choice (log
entry 2; O30 says it is its FEEDs). -/
def Obligations.EveryInstructionCompletes : Prop :=
  ∀ (i : Instr) (s : State), ∃ t, exec i s = .next t

/-- O43. Every command gives exactly one response, the one of its row of R66. -/
def Obligations.OneResponsePerCommand : Prop :=
  ∀ (i : Instr) (s t : State), isCommand i = true → exec i s = .next t →
    t.responses = s.responses ++ [match i with
      | .takeQ => (match s.slot .Q with | some r => .record r | none => .empty)
      | .takeS => (match s.slot .S with | some r => .record r | none => .empty)
      | .takeB => (match s.slot .B with | some r => .record r | none => .empty)
      | .peekQ => .flag (decide (s.slot .Q ≠ none))
      | .peekS => .flag (decide (s.slot .S ≠ none))
      | .peekB => .flag (decide (s.slot .B ≠ none))
      | .status => .status s.statusWord
      | _ => .ack]

/-- O44. The access rights of the commands other than FEED (R35): none writes the window, the counters,
`sync` or `REV`, and only `TAKE.t` writes `slot[t]`. -/
def Obligations.OnlyFeedWritesTheStream : Prop :=
  ∀ (i : Instr) (s t : State), isCommand i = true → (∀ b, i ≠ .feed b) → exec i s = .next t →
    t.window = s.window ∧ t.wp = s.wp ∧ t.cnt = s.cnt ∧ t.sync = s.sync ∧ t.rev = s.rev ∧
    t.rst = s.rst ∧ t.awaitingReset = s.awaitingReset ∧ t.pending = s.pending ∧
    ∀ v, i ≠ takeInstr v → t.slot v = s.slot v

/-- O45. `sync` changes only in a FEED: it is lost by a FEED whose count exceeds `MAXLEN`, and gained by
a decode (R24). -/
def Obligations.SyncChangesOnlyInFeed : Prop :=
  ∀ (i : Instr) (s t : State), isCommand i = true → exec i s = .next t →
    (s.sync = .InSync → t.sync = .OutOfSync →
      ∃ b, i = .feed b ∧ maxLen s.rev < s.cnt.toNat + 1 ∧ t.cnt.toNat = maxLen s.rev ∧
        s.decodedBy b = none) ∧
    (s.sync = .OutOfSync → t.sync = .InSync →
      ∃ b p, i = .feed b ∧ s.decodedBy b = some p)

/-- O46. A mailbox changes only by a decode of its type, which fills it, or by its own TAKE, which
empties it (R25, R26). -/
def Obligations.MailboxChangesOnlyByDecodeOrTake : Prop :=
  ∀ (i : Instr) (s t : State) (v : PacketType), isCommand i = true → exec i s = .next t →
    t.slot v ≠ s.slot v →
      (∃ b r, i = .feed b ∧ s.decodedBy b = some v ∧ t.slot v = some r) ∨
      (i = takeInstr v ∧ t.slot v = none)

/-! ### Power-up -/

/-- O47. A block at power-up (R121), whatever its registers then hold: it accepts none of the units it is
offered, illegal words among them, and the first reset leaves the reset state (R34).  That power-up lasts
until that reset is the model's choice (log entry 18); that the units offered are gone, and that the
responses survive the reset, is that of log entry 5. -/
def Obligations.PowerUpAcceptsNothingUntilReset : Prop :=
  (∀ (contents : State) (units : List Encoded),
    run units.length (State.powerUp { contents with pending := units.map .offer }) =
      .next (State.powerUp { contents with pending := [] })) ∧
  (∀ (contents : State) (units : List Encoded),
    run (units.length + 2)
      (State.powerUp
        { contents with pending := units.map .offer ++ [.assertRst, .deassertRst] }) =
      .next { State.fresh contents.rev with responses := contents.responses })
end

