-- ==== Sys2Proof/Laws/Bits.lean ====
section
/-! SUPPORT. The byte order of a field (R44), the reading of a pattern as a signed value (R12) and the
XOR of bytes (R12, R61). -/

namespace Sys2Proof

theorem be16_toNat (hi lo : Byte) : (be16 hi lo).toNat = 256 * hi.toNat + lo.toNat := by
  simp only [be16, BitVec.toNat_append]
  rw [← Nat.shiftLeft_add_eq_or_of_lt lo.isLt, Nat.shiftLeft_eq]
  omega

theorem hiByte_toNat (v : S16) : (hiByte v).toNat = v.toNat / 256 := by
  have := v.isLt
  simp only [hiByte, BitVec.extractLsb'_toNat, Nat.shiftRight_eq_div_pow]
  omega

theorem loByte_toNat (v : S16) : (loByte v).toNat = v.toNat % 256 := by
  simp [loByte]

@[simp] theorem hiByte_be16 (hi lo : Byte) : hiByte (be16 hi lo) = hi := by
  have := lo.isLt
  apply BitVec.eq_of_toNat_eq
  rw [hiByte_toNat, be16_toNat]
  omega

@[simp] theorem loByte_be16 (hi lo : Byte) : loByte (be16 hi lo) = lo := by
  have := lo.isLt
  apply BitVec.eq_of_toNat_eq
  rw [loByte_toNat, be16_toNat]
  omega

@[simp] theorem be16_hi_lo (v : S16) : be16 (hiByte v) (loByte v) = v := by
  apply BitVec.eq_of_toNat_eq
  rw [be16_toNat, hiByte_toNat, loByte_toNat]
  omega

theorem sext16_eq_toInt (v : S16) : sext16 v = v.toInt := by
  have := v.isLt
  simp only [sext16, BitVec.toInt]
  split <;> split <;> omega

theorem xorBytes_append (as bs : List Byte) : xorBytes (as ++ bs) = xorBytes as ^^^ xorBytes bs := by
  induction as with
  | nil => simp [xorBytes]
  | cons a as ih => simp [xorBytes, ih, BitVec.xor_assoc]

/-- A frame closed by the XOR of its earlier bytes reduces to zero (R61). -/
theorem xorBytes_closed (bs : List Byte) : xorBytes (bs ++ [xorBytes bs]) = 0 := by
  simp [xorBytes_append, xorBytes]

end Sys2Proof
end

