-- ==== Sys2Proof/Laws/Memory.lean ====
section
/-! SUPPORT. The window's list: what a write reads as, that a write keeps the canonical form, and that
equal windows are equal lists. -/

namespace Sys2Proof.Machine

theorem risingFrom_cons {lo a : Nat} {v : Byte} {m : List Host.Cell} :
    Memory.risingFrom lo ((a, v) :: m) = true ↔
      lo ≤ a ∧ a < Config.capacity ∧ v ≠ 0 ∧ Memory.risingFrom (a + 1) m = true := by
  simp [Memory.risingFrom, and_assoc]

theorem risingFrom_mono {lo lo' : Nat} {m : List Host.Cell} (h : Memory.risingFrom lo m = true)
    (hle : lo' ≤ lo) : Memory.risingFrom lo' m = true := by
  cases m with
  | nil => rfl
  | cons c m =>
    obtain ⟨a, v⟩ := c
    rw [risingFrom_cons] at h ⊢
    exact ⟨by omega, h.2⟩

theorem readCell_below {lo i : Nat} {m : List Host.Cell} (h : Memory.risingFrom lo m = true)
    (hi : i < lo) : readCell m i = 0 := by
  induction m generalizing lo with
  | nil => rfl
  | cons c m ih =>
    obtain ⟨a, v⟩ := c
    rw [risingFrom_cons] at h
    rw [readCell, if_neg (by omega)]
    exact ih h.2.2.2 (by omega)

theorem readCell_writeCell {lo : Nat} {m : List Host.Cell} (h : Memory.risingFrom lo m = true)
    (i j : Nat) (b : Byte) :
    readCell (writeCell m i b) j = if j = i then b else readCell m j := by
  induction m generalizing lo with
  | nil =>
    simp only [writeCell]
    split <;> simp_all [readCell]
  | cons c m ih =>
    obtain ⟨a, v⟩ := c
    rw [risingFrom_cons] at h
    have below : ∀ k, k < a + 1 → readCell m k = 0 := fun k hk => readCell_below h.2.2.2 hk
    have ih := ih h.2.2.2
    by_cases hji : j = i
    · subst hji
      rw [if_pos rfl, writeCell]
      split_ifs with h1 h2 h3 h4
      · rw [readCell, if_neg (by omega), below _ (by omega), h2]
      · rw [readCell, if_pos rfl]
      · rw [below _ (by omega), h4]
      · rw [readCell, if_pos rfl]
      · rw [readCell, if_neg h3, ih, if_pos rfl]
    · rw [if_neg hji, writeCell]
      split_ifs with h1 h2 h3 h4
      · rfl
      · rw [readCell, if_neg hji]
      · rw [readCell, if_neg (by omega)]
      · rw [readCell, if_neg hji, readCell, if_neg (by omega)]
      · rw [readCell, readCell, ih, if_neg hji]

theorem risingFrom_writeCell {lo i : Nat} {m : List Host.Cell} (b : Byte)
    (h : Memory.risingFrom lo m = true) (hlo : lo ≤ i) (hi : i < Config.capacity) :
    Memory.risingFrom lo (writeCell m i b) = true := by
  induction m generalizing lo with
  | nil =>
    rw [writeCell]
    split_ifs with h0
    · rfl
    · exact risingFrom_cons.2 ⟨hlo, hi, h0, rfl⟩
  | cons c m ih =>
    obtain ⟨a, v⟩ := c
    have hc := risingFrom_cons.1 h
    rw [writeCell]
    split_ifs with h1 h2 h3 h4
    · exact h
    · exact risingFrom_cons.2 ⟨hlo, hi, h2, risingFrom_cons.2 ⟨h1, hc.2⟩⟩
    · exact risingFrom_mono hc.2.2.2 (by omega)
    · exact risingFrom_cons.2 ⟨hlo, hi, h4, h3 ▸ hc.2.2.2⟩
    · exact risingFrom_cons.2 ⟨hc.1, hc.2.1, hc.2.2.1, ih hc.2.2.2 (by omega)⟩

/-- Every write of the block keeps the canonical form. -/
theorem wf_writeCell {i : Nat} {m : List Host.Cell} (b : Byte) (h : Memory.wf m = true)
    (hi : i < Config.capacity) : Memory.wf (writeCell m i b) = true :=
  risingFrom_writeCell b h (Nat.zero_le i) hi

/-- The window right after reset is canonical. -/
theorem wf_reset : Memory.wf State.reset.window = true := rfl

/-- Two canonical lists that read alike are equal. -/
theorem eq_of_readCell_eq {lo : Nat} {m n : List Host.Cell} (hm : Memory.risingFrom lo m = true)
    (hn : Memory.risingFrom lo n = true) (h : ∀ i, readCell m i = readCell n i) : m = n := by
  induction m generalizing lo n with
  | nil =>
    cases n with
    | nil => rfl
    | cons c n =>
      obtain ⟨a, v⟩ := c
      have := h a
      simp [readCell] at this
      exact absurd this.symm (risingFrom_cons.1 hn).2.2.1
  | cons c m ih =>
    obtain ⟨a, v⟩ := c
    have hc := risingFrom_cons.1 hm
    cases n with
    | nil =>
      have := h a
      simp [readCell] at this
      exact absurd this hc.2.2.1
    | cons d n =>
      obtain ⟨a', v'⟩ := d
      have hd := risingFrom_cons.1 hn
      have haa : a = a' := by
        rcases Nat.lt_trichotomy a a' with hlt | heq | hgt
        · have := h a
          rw [readCell, if_pos rfl, readCell, if_neg (by omega), readCell_below hd.2.2.2 (by omega)] at this
          exact absurd this hc.2.2.1
        · exact heq
        · have := h a'
          rw [readCell, if_neg (by omega), readCell_below hc.2.2.2 (by omega), readCell, if_pos rfl] at this
          exact absurd this.symm hd.2.2.1
      subst haa
      have hv := h a
      simp only [readCell, if_pos] at hv
      subst hv
      rw [ih hc.2.2.2 hd.2.2.2 fun i => ?_]
      by_cases hi : i < a + 1
      · rw [readCell_below hc.2.2.2 hi, readCell_below hd.2.2.2 hi]
      · have := h i
        rwa [readCell, readCell, if_neg (by omega), if_neg (by omega)] at this

end Sys2Proof.Machine
end

