-- ==== Sys2Proof/Laws/State.lean ====
section
/-! SUPPORT. What each update of the state does to each field: one lemma per field per update, so that no
proof unfolds a record update. -/

namespace Sys2Proof.Machine

/-! ### `respond` -/

@[simp] theorem respond_window (s : State) (v : Response) :
    (s.respond v).window = s.window := rfl

@[simp] theorem respond_wp (s : State) (v : Response) :
    (s.respond v).wp = s.wp := rfl

@[simp] theorem respond_cnt (s : State) (v : Response) :
    (s.respond v).cnt = s.cnt := rfl

@[simp] theorem respond_sync (s : State) (v : Response) :
    (s.respond v).sync = s.sync := rfl

@[simp] theorem respond_slotQ (s : State) (v : Response) :
    (s.respond v).slotQ = s.slotQ := rfl

@[simp] theorem respond_slotS (s : State) (v : Response) :
    (s.respond v).slotS = s.slotS := rfl

@[simp] theorem respond_slotB (s : State) (v : Response) :
    (s.respond v).slotB = s.slotB := rfl

@[simp] theorem respond_rev (s : State) (v : Response) :
    (s.respond v).rev = s.rev := rfl

@[simp] theorem respond_rst (s : State) (v : Response) :
    (s.respond v).rst = s.rst := rfl

@[simp] theorem respond_awaitingReset (s : State) (v : Response) :
    (s.respond v).awaitingReset = s.awaitingReset := rfl

@[simp] theorem respond_pending (s : State) (v : Response) :
    (s.respond v).pending = s.pending := rfl

@[simp] theorem respond_responses (s : State) (v : Response) :
    (s.respond v).responses = s.responses ++ [v] := rfl

/-! ### `appendByte` -/

@[simp] theorem appendByte_window (s : State) (b : Byte) :
    (s.appendByte b).window = writeCell s.window s.wp.toNat b := rfl

@[simp] theorem appendByte_wp (s : State) (b : Byte) :
    (s.appendByte b).wp = BitVec.ofNat 8 ((s.wp.toNat + 1) % Config.capacity) := rfl

@[simp] theorem appendByte_cnt (s : State) (b : Byte) :
    (s.appendByte b).cnt = s.cnt := rfl

@[simp] theorem appendByte_sync (s : State) (b : Byte) :
    (s.appendByte b).sync = s.sync := rfl

@[simp] theorem appendByte_slotQ (s : State) (b : Byte) :
    (s.appendByte b).slotQ = s.slotQ := rfl

@[simp] theorem appendByte_slotS (s : State) (b : Byte) :
    (s.appendByte b).slotS = s.slotS := rfl

@[simp] theorem appendByte_slotB (s : State) (b : Byte) :
    (s.appendByte b).slotB = s.slotB := rfl

@[simp] theorem appendByte_rev (s : State) (b : Byte) :
    (s.appendByte b).rev = s.rev := rfl

@[simp] theorem appendByte_rst (s : State) (b : Byte) :
    (s.appendByte b).rst = s.rst := rfl

@[simp] theorem appendByte_awaitingReset (s : State) (b : Byte) :
    (s.appendByte b).awaitingReset = s.awaitingReset := rfl

@[simp] theorem appendByte_pending (s : State) (b : Byte) :
    (s.appendByte b).pending = s.pending := rfl

@[simp] theorem appendByte_responses (s : State) (b : Byte) :
    (s.appendByte b).responses = s.responses := rfl

/-! ### `countByte` -/

@[simp] theorem countByte_window (s : State) :
    (s.countByte).window = s.window := by
  unfold State.countByte; split <;> rfl

@[simp] theorem countByte_wp (s : State) :
    (s.countByte).wp = s.wp := by
  unfold State.countByte; split <;> rfl

@[simp] theorem countByte_cnt (s : State) :
    (s.countByte).cnt = BitVec.ofNat 8 (min (maxLen s.rev) (s.cnt.toNat + 1)) := by
  unfold State.countByte; split <;> simp only <;> congr 1 <;> omega

@[simp] theorem countByte_sync (s : State) :
    (s.countByte).sync = if maxLen s.rev < s.cnt.toNat + 1 then .OutOfSync else s.sync := by
  unfold State.countByte; split <;> rfl

@[simp] theorem countByte_slotQ (s : State) :
    (s.countByte).slotQ = s.slotQ := by
  unfold State.countByte; split <;> rfl

@[simp] theorem countByte_slotS (s : State) :
    (s.countByte).slotS = s.slotS := by
  unfold State.countByte; split <;> rfl

@[simp] theorem countByte_slotB (s : State) :
    (s.countByte).slotB = s.slotB := by
  unfold State.countByte; split <;> rfl

@[simp] theorem countByte_rev (s : State) :
    (s.countByte).rev = s.rev := by
  unfold State.countByte; split <;> rfl

@[simp] theorem countByte_rst (s : State) :
    (s.countByte).rst = s.rst := by
  unfold State.countByte; split <;> rfl

@[simp] theorem countByte_awaitingReset (s : State) :
    (s.countByte).awaitingReset = s.awaitingReset := by
  unfold State.countByte; split <;> rfl

@[simp] theorem countByte_pending (s : State) :
    (s.countByte).pending = s.pending := by
  unfold State.countByte; split <;> rfl

@[simp] theorem countByte_responses (s : State) :
    (s.countByte).responses = s.responses := by
  unfold State.countByte; split <;> rfl

/-! ### `lock` -/

@[simp] theorem lock_window (s : State) :
    (s.lock).window = s.window := rfl

@[simp] theorem lock_wp (s : State) :
    (s.lock).wp = 0 := rfl

@[simp] theorem lock_cnt (s : State) :
    (s.lock).cnt = 0 := rfl

@[simp] theorem lock_sync (s : State) :
    (s.lock).sync = .InSync := rfl

@[simp] theorem lock_slotQ (s : State) :
    (s.lock).slotQ = s.slotQ := rfl

@[simp] theorem lock_slotS (s : State) :
    (s.lock).slotS = s.slotS := rfl

@[simp] theorem lock_slotB (s : State) :
    (s.lock).slotB = s.slotB := rfl

@[simp] theorem lock_rev (s : State) :
    (s.lock).rev = s.rev := rfl

@[simp] theorem lock_rst (s : State) :
    (s.lock).rst = s.rst := rfl

@[simp] theorem lock_awaitingReset (s : State) :
    (s.lock).awaitingReset = s.awaitingReset := rfl

@[simp] theorem lock_pending (s : State) :
    (s.lock).pending = s.pending := rfl

@[simp] theorem lock_responses (s : State) :
    (s.lock).responses = s.responses := rfl

/-! ### `clearSlot` -/

@[simp] theorem clearSlot_window (s : State) (t : PacketType) :
    (s.clearSlot t).window = s.window := by
  cases t <;> rfl

@[simp] theorem clearSlot_wp (s : State) (t : PacketType) :
    (s.clearSlot t).wp = s.wp := by
  cases t <;> rfl

@[simp] theorem clearSlot_cnt (s : State) (t : PacketType) :
    (s.clearSlot t).cnt = s.cnt := by
  cases t <;> rfl

@[simp] theorem clearSlot_sync (s : State) (t : PacketType) :
    (s.clearSlot t).sync = s.sync := by
  cases t <;> rfl

@[simp] theorem clearSlot_slotQ (s : State) (t : PacketType) :
    (s.clearSlot t).slotQ = if t = .Q then none else s.slotQ := by
  cases t <;> rfl

@[simp] theorem clearSlot_slotS (s : State) (t : PacketType) :
    (s.clearSlot t).slotS = if t = .S then none else s.slotS := by
  cases t <;> rfl

@[simp] theorem clearSlot_slotB (s : State) (t : PacketType) :
    (s.clearSlot t).slotB = if t = .B then none else s.slotB := by
  cases t <;> rfl

@[simp] theorem clearSlot_rev (s : State) (t : PacketType) :
    (s.clearSlot t).rev = s.rev := by
  cases t <;> rfl

@[simp] theorem clearSlot_rst (s : State) (t : PacketType) :
    (s.clearSlot t).rst = s.rst := by
  cases t <;> rfl

@[simp] theorem clearSlot_awaitingReset (s : State) (t : PacketType) :
    (s.clearSlot t).awaitingReset = s.awaitingReset := by
  cases t <;> rfl

@[simp] theorem clearSlot_pending (s : State) (t : PacketType) :
    (s.clearSlot t).pending = s.pending := by
  cases t <;> rfl

@[simp] theorem clearSlot_responses (s : State) (t : PacketType) :
    (s.clearSlot t).responses = s.responses := by
  cases t <;> rfl

/-! ### `putRecord` -/

@[simp] theorem putRecord_window (s : State) (r : Record) :
    (s.putRecord r).window = s.window := by
  cases r <;> rfl

@[simp] theorem putRecord_wp (s : State) (r : Record) :
    (s.putRecord r).wp = s.wp := by
  cases r <;> rfl

@[simp] theorem putRecord_cnt (s : State) (r : Record) :
    (s.putRecord r).cnt = s.cnt := by
  cases r <;> rfl

@[simp] theorem putRecord_sync (s : State) (r : Record) :
    (s.putRecord r).sync = s.sync := by
  cases r <;> rfl

@[simp] theorem putRecord_rev (s : State) (r : Record) :
    (s.putRecord r).rev = s.rev := by
  cases r <;> rfl

@[simp] theorem putRecord_rst (s : State) (r : Record) :
    (s.putRecord r).rst = s.rst := by
  cases r <;> rfl

@[simp] theorem putRecord_awaitingReset (s : State) (r : Record) :
    (s.putRecord r).awaitingReset = s.awaitingReset := by
  cases r <;> rfl

@[simp] theorem putRecord_pending (s : State) (r : Record) :
    (s.putRecord r).pending = s.pending := by
  cases r <;> rfl

@[simp] theorem putRecord_responses (s : State) (r : Record) :
    (s.putRecord r).responses = s.responses := by
  cases r <;> rfl

/-! ### `resetBlock` -/

@[simp] theorem resetBlock_window (s : State) :
    (s.resetBlock).window = [] := rfl

@[simp] theorem resetBlock_wp (s : State) :
    (s.resetBlock).wp = 0 := rfl

@[simp] theorem resetBlock_cnt (s : State) :
    (s.resetBlock).cnt = 0 := rfl

@[simp] theorem resetBlock_sync (s : State) :
    (s.resetBlock).sync = .OutOfSync := rfl

@[simp] theorem resetBlock_slotQ (s : State) :
    (s.resetBlock).slotQ = none := rfl

@[simp] theorem resetBlock_slotS (s : State) :
    (s.resetBlock).slotS = none := rfl

@[simp] theorem resetBlock_slotB (s : State) :
    (s.resetBlock).slotB = none := rfl

@[simp] theorem resetBlock_rev (s : State) :
    (s.resetBlock).rev = s.rev := rfl

@[simp] theorem resetBlock_rst (s : State) :
    (s.resetBlock).rst = false := rfl

@[simp] theorem resetBlock_awaitingReset (s : State) :
    (s.resetBlock).awaitingReset = false := rfl

@[simp] theorem resetBlock_pending (s : State) :
    (s.resetBlock).pending = s.pending := rfl

@[simp] theorem resetBlock_responses (s : State) :
    (s.resetBlock).responses = s.responses := rfl

/-! ### `receiveByte` -/

@[simp] theorem receiveByte_window (s : State) (b : Byte) :
    (s.receiveByte b).window = writeCell s.window s.wp.toNat b := by
  simp [State.receiveByte]

@[simp] theorem receiveByte_wp (s : State) (b : Byte) :
    (s.receiveByte b).wp = BitVec.ofNat 8 ((s.wp.toNat + 1) % Config.capacity) := by
  simp [State.receiveByte]

@[simp] theorem receiveByte_cnt (s : State) (b : Byte) :
    (s.receiveByte b).cnt = BitVec.ofNat 8 (min (maxLen s.rev) (s.cnt.toNat + 1)) := by
  simp [State.receiveByte]

@[simp] theorem receiveByte_sync (s : State) (b : Byte) :
    (s.receiveByte b).sync = if maxLen s.rev < s.cnt.toNat + 1 then .OutOfSync else s.sync := by
  simp [State.receiveByte]

@[simp] theorem receiveByte_slotQ (s : State) (b : Byte) :
    (s.receiveByte b).slotQ = s.slotQ := by
  simp [State.receiveByte]

@[simp] theorem receiveByte_slotS (s : State) (b : Byte) :
    (s.receiveByte b).slotS = s.slotS := by
  simp [State.receiveByte]

@[simp] theorem receiveByte_slotB (s : State) (b : Byte) :
    (s.receiveByte b).slotB = s.slotB := by
  simp [State.receiveByte]

@[simp] theorem receiveByte_rev (s : State) (b : Byte) :
    (s.receiveByte b).rev = s.rev := by
  simp [State.receiveByte]

@[simp] theorem receiveByte_rst (s : State) (b : Byte) :
    (s.receiveByte b).rst = s.rst := by
  simp [State.receiveByte]

@[simp] theorem receiveByte_awaitingReset (s : State) (b : Byte) :
    (s.receiveByte b).awaitingReset = s.awaitingReset := by
  simp [State.receiveByte]

@[simp] theorem receiveByte_pending (s : State) (b : Byte) :
    (s.receiveByte b).pending = s.pending := by
  simp [State.receiveByte]

@[simp] theorem receiveByte_responses (s : State) (b : Byte) :
    (s.receiveByte b).responses = s.responses := by
  simp [State.receiveByte]

/-! ### `withFetchWord` -/

@[simp] theorem withFetchWord_window (s : State) (nbits w : Nat) :
    (s.withFetchWord nbits w).window = s.window := rfl

@[simp] theorem withFetchWord_wp (s : State) (nbits w : Nat) :
    (s.withFetchWord nbits w).wp = s.wp := rfl

@[simp] theorem withFetchWord_cnt (s : State) (nbits w : Nat) :
    (s.withFetchWord nbits w).cnt = s.cnt := rfl

@[simp] theorem withFetchWord_sync (s : State) (nbits w : Nat) :
    (s.withFetchWord nbits w).sync = s.sync := rfl

@[simp] theorem withFetchWord_slotQ (s : State) (nbits w : Nat) :
    (s.withFetchWord nbits w).slotQ = s.slotQ := rfl

@[simp] theorem withFetchWord_slotS (s : State) (nbits w : Nat) :
    (s.withFetchWord nbits w).slotS = s.slotS := rfl

@[simp] theorem withFetchWord_slotB (s : State) (nbits w : Nat) :
    (s.withFetchWord nbits w).slotB = s.slotB := rfl

@[simp] theorem withFetchWord_rev (s : State) (nbits w : Nat) :
    (s.withFetchWord nbits w).rev = s.rev := rfl

@[simp] theorem withFetchWord_rst (s : State) (nbits w : Nat) :
    (s.withFetchWord nbits w).rst = false := rfl

@[simp] theorem withFetchWord_awaitingReset (s : State) (nbits w : Nat) :
    (s.withFetchWord nbits w).awaitingReset = false := rfl

@[simp] theorem withFetchWord_pending (s : State) (nbits w : Nat) :
    (s.withFetchWord nbits w).pending = .offer (tableUnit nbits w) :: s.pending := rfl

@[simp] theorem withFetchWord_responses (s : State) (nbits w : Nat) :
    (s.withFetchWord nbits w).responses = s.responses := rfl

/-! ### Power-up (R121) -/

@[simp] theorem powerUp_awaitingReset (s : State) : s.powerUp.awaitingReset = true := rfl

@[simp] theorem powerUp_window (s : State) : s.powerUp.window = s.window := rfl

@[simp] theorem powerUp_wp (s : State) : s.powerUp.wp = s.wp := rfl

@[simp] theorem powerUp_cnt (s : State) : s.powerUp.cnt = s.cnt := rfl

@[simp] theorem powerUp_sync (s : State) : s.powerUp.sync = s.sync := rfl

@[simp] theorem powerUp_slotQ (s : State) : s.powerUp.slotQ = s.slotQ := rfl

@[simp] theorem powerUp_slotS (s : State) : s.powerUp.slotS = s.slotS := rfl

@[simp] theorem powerUp_slotB (s : State) : s.powerUp.slotB = s.slotB := rfl

@[simp] theorem powerUp_rev (s : State) : s.powerUp.rev = s.rev := rfl

@[simp] theorem powerUp_rst (s : State) : s.powerUp.rst = s.rst := rfl

@[simp] theorem powerUp_pending (s : State) : s.powerUp.pending = s.pending := rfl

@[simp] theorem powerUp_responses (s : State) : s.powerUp.responses = s.responses := rfl

theorem acceptsCommands_iff (s : State) :
    s.acceptsCommands = true ↔ s.rst = false ∧ s.awaitingReset = false := by
  simp [State.acceptsCommands]

@[simp] theorem acceptsCommands_powerUp (s : State) : s.powerUp.acceptsCommands = false := by
  simp [State.acceptsCommands]

@[simp] theorem acceptsCommands_resetBlock (s : State) : s.resetBlock.acceptsCommands = true := rfl

@[simp] theorem acceptsCommands_withFetchWord (s : State) (nbits w : Nat) :
    (s.withFetchWord nbits w).acceptsCommands = true := rfl

/-! ### Mailboxes by type -/

@[simp] theorem slot_respond (s : State) (v : Response) (t : PacketType) :
    (s.respond v).slot t = s.slot t := by
  cases t <;> rfl

@[simp] theorem slot_receiveByte (s : State) (b : Byte) (t : PacketType) :
    (s.receiveByte b).slot t = s.slot t := by
  cases t <;> simp [State.slot]

@[simp] theorem slot_lock (s : State) (t : PacketType) : s.lock.slot t = s.slot t := by
  cases t <;> rfl

theorem slot_clearSlot (s : State) (t u : PacketType) :
    (s.clearSlot t).slot u = if u = t then none else s.slot u := by
  cases t <;> cases u <;> rfl

theorem slot_putRecord (s : State) (r : Record) (u : PacketType) :
    (s.putRecord r).slot u = if u = r.type then some r else s.slot u := by
  cases r <;> cases u <;> rfl

@[simp] theorem decodeRecord_type (s : State) (t : PacketType) (base : Nat) :
    (s.decodeRecord t base).type = t := by
  cases t <;> rfl

end Sys2Proof.Machine
end

