-- ==== Sys2Proof/Laws/Ops.lean ====
section
/-! SUPPORT. One lemma per shared operation that says all it can do: the window after an append, when an
attempt succeeds, what the match procedure and a FEED leave, and what TAKE and PEEK leave. -/

namespace Sys2Proof.Machine

/-! ### Frame lengths (R8, R58, R132) -/

theorem four_le_frameLen (rev : Rev) (t : PacketType) : 4 ≤ frameLen rev t := by
  cases rev <;> cases t <;> decide

theorem frameLen_le_maxLen (rev : Rev) (t : PacketType) : frameLen rev t ≤ maxLen rev := by
  cases rev <;> cases t <;> decide

theorem maxLen_lt_capacity (rev : Rev) : maxLen rev < Config.capacity := by
  cases rev <;> decide

/-! ### The window -/

theorem windowByte_congr {s t : State} (h : s.window = t.window) (i : Nat) :
    s.windowByte i = t.windowByte i := by
  simp [State.windowByte, h]

theorem windowByte_receiveByte {s : State} (h : Memory.wf s.window = true) (b : Byte) {i : Nat}
    (hi : i < Config.capacity) :
    (s.receiveByte b).windowByte i = if i = s.wp.toNat then b else s.windowByte i := by
  simp only [State.windowByte, receiveByte_window, Nat.mod_eq_of_lt hi]
  exact readCell_writeCell h s.wp.toNat i b

theorem receiveByte_wf {s : State} (h : Memory.wf s.window = true) (b : Byte) :
    Memory.wf (s.receiveByte b).window = true := by
  rw [receiveByte_window]
  exact wf_writeCell b h s.wp.isLt

/-- The structural XOR of a range is the XOR of the bytes it runs over (R12). -/
theorem xorRange_eq_xorBytes (s : State) (base n : Nat) :
    s.xorRange base n = xorBytes ((List.range n).map fun k => s.windowByte (base + k)) := by
  induction n with
  | zero => rfl
  | succ n ih => simp [State.xorRange, ih, List.range_succ, xorBytes_append, xorBytes]

theorem xorRange_congr {s t : State} {base n : Nat}
    (h : ∀ k, k < n → s.windowByte (base + k) = t.windowByte (base + k)) :
    s.xorRange base n = t.xorRange base n := by
  induction n with
  | zero => rfl
  | succ n ih =>
    rw [State.xorRange, State.xorRange, ih fun k hk => h k (by omega), h n (by omega)]

/-! ### The match procedure (R74 to R85) -/

/-- When an attempt succeeds: the three tests in order (R74). -/
theorem passes_iff (s : State) (t : PacketType) :
    s.passes t = true ↔
      frameLen s.rev t ≤ s.wp.toNat ∧ s.windowByte (s.tagPosition t) = tag t ∧
        s.xorRange (s.wp.toNat - frameLen s.rev t) (frameLen s.rev t) = 0 := by
  simp [State.passes, State.gateOpen, State.tagMatches, State.checksum, State.candidateStart,
    and_assoc]

theorem tagPosition_inSync {s : State} (h : s.sync = .InSync) (t : PacketType) :
    s.tagPosition t = 0 := by
  simp [State.tagPosition, h]

theorem tagPosition_outOfSync {s : State} (h : s.sync = .OutOfSync) (t : PacketType) :
    s.tagPosition t = s.wp.toNat - frameLen s.rev t := by
  simp [State.tagPosition, h, State.candidateStart]

/-- After a decode `wp = 0`, so no further type passes its length gate (R83). -/
theorem passes_lock (s : State) (t : PacketType) : s.lock.passes t = false := by
  have := four_le_frameLen s.rev t
  have h : s.lock.gateOpen t = false := by
    simp only [State.gateOpen, lock_wp, lock_rev]
    simp
    omega
  simp [State.passes, h]

theorem attempt_decodeType (s : State) (t u : PacketType) :
    (s.decodeType t).attempt u = s.decodeType t := by
  simp [State.attempt, State.decodeType, passes_lock]

/-- The match procedure decodes the first type in priority order that passes, and only that one (R74,
R83, R84); where none passes it changes nothing (R85). -/
theorem matchTypes_eq (s : State) :
    s.matchTypes = match s.firstPassing with
      | some t => s.decodeType t
      | none => s := by
  simp only [State.matchTypes, State.firstPassing, priorityOrder, List.foldl, List.find?]
  by_cases hQ : s.passes .Q = true
  · have h : s.attempt .Q = s.decodeType .Q := by simp [State.attempt, hQ]
    simp [h, hQ, attempt_decodeType]
  · by_cases hS : s.passes .S = true
    · have h : s.attempt .Q = s := by simp [State.attempt, hQ]
      have h' : s.attempt .S = s.decodeType .S := by simp [State.attempt, hS]
      simp [h, h', hQ, hS, attempt_decodeType]
    · have h : s.attempt .Q = s := by simp [State.attempt, hQ]
      have h' : s.attempt .S = s := by simp [State.attempt, hS]
      by_cases hB : s.passes .B = true
      · have h'' : s.attempt .B = s.decodeType .B := by simp [State.attempt, hB]
        simp [h, h', h'', hQ, hS, hB]
      · have h'' : s.attempt .B = s := by simp [State.attempt, hB]
        simp [h, h', h'', hQ, hS, hB]

theorem firstPassing_passes {s : State} {t : PacketType} (h : s.firstPassing = some t) :
    s.passes t = true :=
  List.find?_some h

/-- A FEED whose byte completes no frame: steps 1 and 2 only (R85). -/
theorem feedByte_of_none {s : State} {b : Byte} (h : (s.receiveByte b).firstPassing = none) :
    s.feedByte b = (s.receiveByte b).respond .ack := by
  simp [State.feedByte, matchTypes_eq, h]

/-- A FEED whose byte completes a frame of type `t` (R79 to R81). -/
theorem feedByte_of_some {s : State} {b : Byte} {t : PacketType}
    (h : (s.receiveByte b).firstPassing = some t) :
    s.feedByte b = ((s.receiveByte b).decodeType t).respond .ack := by
  simp [State.feedByte, matchTypes_eq, h]

@[simp] theorem decodeType_window (s : State) (t : PacketType) :
    (s.decodeType t).window = s.window := by
  simp [State.decodeType]

@[simp] theorem decodeType_wp (s : State) (t : PacketType) : (s.decodeType t).wp = 0 := rfl

@[simp] theorem decodeType_cnt (s : State) (t : PacketType) : (s.decodeType t).cnt = 0 := rfl

@[simp] theorem decodeType_sync (s : State) (t : PacketType) :
    (s.decodeType t).sync = .InSync := rfl

@[simp] theorem decodeType_rev (s : State) (t : PacketType) : (s.decodeType t).rev = s.rev := by
  simp [State.decodeType]

@[simp] theorem decodeType_rst (s : State) (t : PacketType) : (s.decodeType t).rst = s.rst := by
  simp [State.decodeType]

@[simp] theorem decodeType_awaitingReset (s : State) (t : PacketType) : (s.decodeType t).awaitingReset = s.awaitingReset := by
  simp [State.decodeType]

@[simp] theorem decodeType_pending (s : State) (t : PacketType) :
    (s.decodeType t).pending = s.pending := by
  simp [State.decodeType]

@[simp] theorem decodeType_responses (s : State) (t : PacketType) :
    (s.decodeType t).responses = s.responses := by
  simp [State.decodeType]

theorem slot_decodeType (s : State) (t u : PacketType) :
    (s.decodeType t).slot u =
      if u = t then some (s.decodeRecord t (s.candidateStart t)) else s.slot u := by
  simp [State.decodeType, slot_putRecord]

/-! ### FEED, field by field -/

@[simp] theorem feedByte_window (s : State) (b : Byte) :
    (s.feedByte b).window = writeCell s.window s.wp.toNat b := by
  simp only [State.feedByte, matchTypes_eq, respond_window]
  split <;> simp

@[simp] theorem feedByte_rev (s : State) (b : Byte) : (s.feedByte b).rev = s.rev := by
  simp only [State.feedByte, matchTypes_eq, respond_rev]
  split <;> simp

@[simp] theorem feedByte_rst (s : State) (b : Byte) : (s.feedByte b).rst = s.rst := by
  simp only [State.feedByte, matchTypes_eq, respond_rst]
  split <;> simp

@[simp] theorem feedByte_awaitingReset (s : State) (b : Byte) : (s.feedByte b).awaitingReset = s.awaitingReset := by
  simp only [State.feedByte, matchTypes_eq, respond_awaitingReset]
  split <;> simp

@[simp] theorem feedByte_pending (s : State) (b : Byte) : (s.feedByte b).pending = s.pending := by
  simp only [State.feedByte, matchTypes_eq, respond_pending]
  split <;> simp

@[simp] theorem feedByte_responses (s : State) (b : Byte) :
    (s.feedByte b).responses = s.responses ++ [.ack] := by
  simp only [State.feedByte, matchTypes_eq, respond_responses]
  split <;> simp

/-! ### Groups of bytes (R88) -/

@[simp] theorem feedBytes_nil (s : State) : s.feedBytes [] = s := rfl

@[simp] theorem feedBytes_cons (s : State) (b : Byte) (bs : List Byte) :
    s.feedBytes (b :: bs) = (s.feedByte b).feedBytes bs :=
  List.foldl_cons ..

theorem feedBytes_append (s : State) (as bs : List Byte) :
    s.feedBytes (as ++ bs) = (s.feedBytes as).feedBytes bs := by
  induction as generalizing s with
  | nil => rfl
  | cons a as ih => simp [ih]

@[simp] theorem feedBytes_rev (s : State) (bs : List Byte) : (s.feedBytes bs).rev = s.rev := by
  induction bs generalizing s with
  | nil => rfl
  | cons b bs ih => simp [ih]

@[simp] theorem feedBytes_rst (s : State) (bs : List Byte) : (s.feedBytes bs).rst = s.rst := by
  induction bs generalizing s with
  | nil => rfl
  | cons b bs ih => simp [ih]

@[simp] theorem feedBytes_awaitingReset (s : State) (bs : List Byte) : (s.feedBytes bs).awaitingReset = s.awaitingReset := by
  induction bs generalizing s with
  | nil => rfl
  | cons b bs ih => simp [ih]

@[simp] theorem feedBytes_pending (s : State) (bs : List Byte) :
    (s.feedBytes bs).pending = s.pending := by
  induction bs generalizing s with
  | nil => rfl
  | cons b bs ih => simp [ih]

@[simp] theorem feedBytes_responses (s : State) (bs : List Byte) :
    (s.feedBytes bs).responses = s.responses ++ List.replicate bs.length .ack := by
  induction bs generalizing s with
  | nil => simp
  | cons b bs ih => simp [ih, List.replicate_succ]

/-! ### TAKE and PEEK (R93, R97) -/

theorem take_of_some {s : State} {t : PacketType} {r : Record} (h : s.slot t = some r) :
    s.take t = (s.clearSlot t).respond (.record r) := by
  simp [State.take, h, takeResponse]

theorem take_of_none {s : State} {t : PacketType} (h : s.slot t = none) :
    s.take t = s.respond .empty := by
  have hc : s.clearSlot t = s := by
    cases t <;> simp only [State.slot, Option.map_eq_none_iff] at h <;>
      simp only [State.clearSlot, ← h]
  simp [State.take, h, hc, takeResponse]

theorem slot_take (s : State) (t u : PacketType) :
    (s.take t).slot u = if u = t then none else s.slot u := by
  simp [State.take, slot_clearSlot]

end Sys2Proof.Machine
end

