-- ==== Sys2Proof/Laws/PerInstr.lean ====
section
/-! SUPPORT. Statements made per instruction: how many bits an instruction's encoding has (R58, R63). -/

namespace Sys2Proof

/-- The number of bits of an encoded unit: 12 of a command word (R63), 8 of each stream byte (R55). -/
def encodedBits : Encoded → Nat
  | .word _ => 12
  | .burst bytes => 8 * bytes.length

/-- The number of bits the opcode table gives an instruction: its width, or 8 times its `length_bytes`
(R58). -/
def tableBits : Instr → Nat
  | .nop | .feed _ | .takeQ | .takeS | .takeB | .peekQ | .peekS | .peekB | .status => 12
  | .frameQWC _ _ _ => 88
  | .frameQNC _ _ => 80
  | .frameSWC _ _ _ => 168
  | .frameSNC _ _ => 160
  | .frameBWC _ _ _ => 40
  | .frameBNC _ _ => 32

end Sys2Proof

namespace Sys2Proof.Laws.EncodedSize

/-- An instruction's encoding is as long as its row of the opcode table says. -/
def Statement (i : Instr) : Prop := encodedBits (encode i) = tableBits i

theorem nop : Statement .nop := rfl
theorem feed (b : Byte) : Statement (.feed b) := rfl
theorem takeQ : Statement .takeQ := rfl
theorem takeS : Statement .takeS := rfl
theorem takeB : Statement .takeB := rfl
theorem peekQ : Statement .peekQ := rfl
theorem peekS : Statement .peekS := rfl
theorem peekB : Statement .peekB := rfl
theorem status : Statement .status := rfl
theorem frameQWC (f : QuaternionFields) (ctr k : Byte) : Statement (.frameQWC f ctr k) := rfl
theorem frameQNC (f : QuaternionFields) (k : Byte) : Statement (.frameQNC f k) := rfl
theorem frameSWC (f : SensorFields) (ctr k : Byte) : Statement (.frameSWC f ctr k) := rfl
theorem frameSNC (f : SensorFields) (k : Byte) : Statement (.frameSNC f k) := rfl
theorem frameBWC (f : BatteryFields) (ctr k : Byte) : Statement (.frameBWC f ctr k) := rfl
theorem frameBNC (f : BatteryFields) (k : Byte) : Statement (.frameBNC f k) := rfl

end Sys2Proof.Laws.EncodedSize
end

