-- ==== Sys2Proof/Laws/Step.lean ====
section
/-! SUPPORT. What a step can be: one lemma per kind of event, and the steps of a run. -/

namespace Sys2Proof.Machine

theorem step_idle {s : State} (h : s.pending = []) : step s = .next s := by
  simp [step, h]

theorem step_assertRst {s : State} {es : List HostEvent} (h : s.pending = .assertRst :: es) :
    step s = .next { s with pending := es, rst := true } := by
  simp [step, h]

theorem step_deassertRst {s : State} {es : List HostEvent} (h : s.pending = .deassertRst :: es)
    (hr : s.rst = true) : step s = .next (State.resetBlock { s with pending := es }) := by
  simp [step, h, hr]

theorem step_deassertRst_low {s : State} {es : List HostEvent} (h : s.pending = .deassertRst :: es)
    (hr : s.rst = false) : step s = .next { s with pending := es } := by
  simp [step, h, hr]

theorem step_offer {s : State} {x : Encoded} {es : List HostEvent}
    (h : s.pending = .offer x :: es) (ha : s.acceptsCommands = true) :
    step s = accept x { s with pending := es } := by
  simp [step, h, ha]

/-- A block that accepts no command drops what it is offered (R121). -/
theorem step_offer_not_accepted {s : State} {x : Encoded} {es : List HostEvent}
    (h : s.pending = .offer x :: es) (ha : s.acceptsCommands = false) :
    step s = .next { s with pending := es } := by
  simp [step, h, ha]

/-- A frame is its bytes fed one by one (R69, R88). -/
theorem exec_streamBytes {i : Instr} {bytes : List Byte} (h : encode i = .burst bytes) (s : State) :
    exec i s = .next (s.feedBytes bytes) := by
  cases i <;> simp only [encode, reduceCtorEq, Encoded.burst.injEq] at h <;> subst h <;> rfl

theorem host_run_succ (M : Host.Core) (n : Nat) (s : M.State) :
    M.run (n + 1) s = match M.step s with
      | .next t => M.run n t
      | .fault r => .fault r
      | .refused r => .refused r := by
  cases h : M.step s <;> simp [Host.Core.run, h]

/-- The run of the statements is the run of the host's interface. -/
theorem run_eq_core_run (n : Nat) (s : State) : run n s = core.run n s := by
  induction n generalizing s with
  | zero => rfl
  | succ n ih =>
    have hc := host_run_succ core n s
    rw [run]
    cases h : step s with
    | next t =>
      have hs : core.step s = .next t := h
      rw [hs] at hc
      exact (ih t).trans hc.symm
    | fault r =>
      have hs : core.step s = .fault r := h
      rw [hs] at hc
      exact hc.symm
    | refused r =>
      have hs : core.step s = .refused r := h
      rw [hs] at hc
      exact hc.symm

end Sys2Proof.Machine
end

