-- ==== Sys2Proof/Tests/Slice0.lean ====
section
/-! SUPPORT. The model's own tests: words written out from the encodings of R57 and R64, the vectors of
spec/95_test_vectors.md (V<n>), an ill-formed term for each check of WellFormed, and for each statement
with hypotheses a witness that meets them all (witness_<statement>). -/

namespace Sys2Proof.Tests

open Sys2Proof Sys2Proof.Machine

/-! ### Helpers -/

/-- What a test asks of the state after a step. -/
def after (o : Host.Outcome State Fault Refusal) (p : State → Bool) : Bool :=
  match o with
  | .next t => p t
  | .fault _ => false
  | .refused _ => false

/-- The window's list for some bytes written from an index on. -/
def cells (base : Nat) : List Byte → List Host.Cell
  | [] => []
  | b :: bs => if b = 0 then cells (base + 1) bs else (base, b) :: cells (base + 1) bs

/-- A block that holds some bytes from index 0 and has counted them since reset. -/
def holding (rev : Rev) (sync : Sync) (bytes : List Byte) : State :=
  { State.fresh rev with
    window := cells 0 bytes
    wp := BitVec.ofNat 8 bytes.length
    cnt := BitVec.ofNat 8 bytes.length
    sync := sync }

/-- An aligned block: InSync with nothing received since the last decode. -/
def aligned (rev : Rev) : State := { State.fresh rev with sync := .InSync }

/-- A block with a record in each mailbox. -/
def full : State :=
  { State.fresh .WC with
    slotQ := some ⟨⟨1, 2, 3, 4⟩, some 1⟩
    slotS := some ⟨⟨1, 2, 3, 4, 5, 6, 7, 8, 9⟩, some 2⟩
    slotB := some ⟨⟨3700⟩, some 7⟩ }

/-- Vector V1 without its last byte, which is 0x54. -/
def v1Open : List Byte := [0x51, 0x00, 0x01, 0x00, 0x02, 0x00, 0x03, 0x00, 0x04, 0x01]

/-- Vector V2 without its last byte, which is 0xA8. -/
def v2Open : List Byte := [0x53, 0x00, 0x01, 0xFF, 0xFF, 0x7F, 0xFF, 0x80, 0x00, 0x00, 0x05, 0x00,
  0x06, 0x00, 0x07, 0x00, 0x08, 0x00, 0x09, 0xFF]

/-! ### Decoding: words written out from R64, frames from R57 -/

theorem test_decode_nop : decode (.word 0b000000000000) = .ok .nop := by decide
theorem test_decode_feed : decode (.word 0b000101010001) = .ok (.feed 0b01010001) := by decide
theorem test_decode_takeQ : decode (.word 0b001000000000) = .ok .takeQ := by decide
theorem test_decode_takeS : decode (.word 0b001000000001) = .ok .takeS := by decide
theorem test_decode_takeB : decode (.word 0b001000000010) = .ok .takeB := by decide
theorem test_decode_peekQ : decode (.word 0b001100000000) = .ok .peekQ := by decide
theorem test_decode_peekS : decode (.word 0b001100000001) = .ok .peekS := by decide
theorem test_decode_peekB : decode (.word 0b001100000010) = .ok .peekB := by decide
theorem test_decode_status : decode (.word 0b010000000000) = .ok .status := by decide

/-- V1. -/
theorem test_decode_frameQWC :
    decode (.burst [0x51, 0x00, 0x01, 0x00, 0x02, 0x00, 0x03, 0x00, 0x04, 0x01, 0x54]) =
      .ok (.frameQWC ⟨1, 2, 3, 4⟩ 1 0x54) := by decide

/-- V5. -/
theorem test_decode_frameQNC :
    decode (.burst [0x51, 0x00, 0x01, 0x00, 0x02, 0x00, 0x03, 0x00, 0x04, 0x55]) =
      .ok (.frameQNC ⟨1, 2, 3, 4⟩ 0x55) := by decide

/-- V2. -/
theorem test_decode_frameSWC :
    decode (.burst [0x53, 0x00, 0x01, 0xFF, 0xFF, 0x7F, 0xFF, 0x80, 0x00, 0x00, 0x05, 0x00, 0x06,
      0x00, 0x07, 0x00, 0x08, 0x00, 0x09, 0xFF, 0xA8]) =
      .ok (.frameSWC ⟨1, -1, 32767, -32768, 5, 6, 7, 8, 9⟩ 255 0xA8) := by decide

/-- V6. -/
theorem test_decode_frameSNC :
    decode (.burst [0x53, 0x00, 0x01, 0xFF, 0xFF, 0x7F, 0xFF, 0x80, 0x00, 0x00, 0x05, 0x00, 0x06,
      0x00, 0x07, 0x00, 0x08, 0x00, 0x09, 0x57]) =
      .ok (.frameSNC ⟨1, -1, 32767, -32768, 5, 6, 7, 8, 9⟩ 0x57) := by decide

/-- V3. -/
theorem test_decode_frameBWC :
    decode (.burst [0x42, 0x0E, 0x74, 0x07, 0x3F]) = .ok (.frameBWC ⟨3700⟩ 7 0x3F) := by decide

/-- V8. -/
theorem test_decode_frameBNC :
    decode (.burst [0x42, 0xFF, 0xFE, 0x43]) = .ok (.frameBNC ⟨-2⟩ 0x43) := by decide

/-- V47 to V51, and one word of each reason of R65. -/
theorem test_decode_rejects :
    decode (.word 0x001) = .error .argNotZero ∧ decode (.word 0x203) = .error .reservedType ∧
    decode (.word 0x204) = .error .typeHighBitsNotZero ∧ decode (.word 0x401) = .error .argNotZero ∧
    decode (.word 0x500) = .error .reservedOpcode ∧ decode (.word 0xFFF) = .error .reservedOpcode ∧
    decode (.burst [0x51, 0x00]) = .error .notAFrame := by decide

/-- The rows of spec/opcode_table.json as the host numbers them. -/
theorem test_decodeTableWord :
    decodeTableWord 16 0x142 = some (.feed 0x42) ∧ decodeTableWord 16 0x302 = some .peekB ∧
    decodeTableWord 8 0x42 = some (.frameBWC ⟨0⟩ 0 0) ∧
    decodeTableWord 32 0x38740E42 = some (.frameBNC ⟨3700⟩ 0x38) ∧
    decodeTableWord 16 0x1100 = none := by decide

/-- A row's unit is what the first step after reset runs. -/
theorem test_withFetchWord_runs :
    after (step ((State.fresh .WC).withFetchWord 40 0x3F07740E42)) (fun t =>
      t.slotB == some ⟨⟨3700⟩, some 7⟩ && t.pending == []) = true := by decide +kernel

/-! ### WellFormed: an ill-formed term for each check (R61) -/

theorem test_wellFormed_command : Instr.wellFormed (.feed 0xFF) = true := by decide
theorem test_wellFormed_frame : Instr.wellFormed (.frameQWC ⟨1, 2, 3, 4⟩ 1 0x54) = true := by decide
/-- V10. -/
theorem test_illFormed_frameQWC :
    Instr.wellFormed (.frameQWC ⟨1, 2, 3, 4⟩ 1 0x55) = false := by decide
theorem test_illFormed_frameQNC : Instr.wellFormed (.frameQNC ⟨1, 2, 3, 4⟩ 0x54) = false := by decide
theorem test_illFormed_frameSWC :
    Instr.wellFormed (.frameSWC ⟨1, -1, 32767, -32768, 5, 6, 7, 8, 9⟩ 255 0xA9) = false := by decide
theorem test_illFormed_frameSNC :
    Instr.wellFormed (.frameSNC ⟨1, -1, 32767, -32768, 5, 6, 7, 8, 9⟩ 0xA8) = false := by decide
theorem test_illFormed_frameBWC : Instr.wellFormed (.frameBWC ⟨3700⟩ 7 0x38) = false := by decide
theorem test_illFormed_frameBNC : Instr.wellFormed (.frameBNC ⟨3700⟩ 0x3F) = false := by decide

/-! ### Meanings -/

/-- P4 line 6. -/
theorem test_nop : after (exec .nop full) (fun t =>
    t.responses == [.ack] && t.cnt == full.cnt && t.slotQ == full.slotQ) = true := by decide

/-- V1, its last byte. -/
theorem test_feed_completes_frame : after (exec (.feed 0x54) (holding .WC .OutOfSync v1Open)) (fun t =>
    t.slotQ == some ⟨⟨1, 2, 3, 4⟩, some 1⟩ && t.wp == 0 && t.cnt == 0 && t.sync == .InSync &&
      t.responses == [.ack]) = true := by decide

/-- V24, its last byte: the tag from index 0, the fields from the window that starts at index 1. -/
theorem test_feed_fast_path_is_asymmetric :
    after (exec (.feed 0xAF) (holding .WC .InSync (v1Open ++ [0xAA]))) (fun t =>
      t.slotQ == some ⟨⟨256, 512, 768, 1025⟩, some 170⟩) = true := by decide

/-- V33. -/
theorem test_takeQ : after (exec .takeQ full) (fun t =>
    t.responses == [.record (.quaternion ⟨⟨1, 2, 3, 4⟩, some 1⟩)] && t.slotQ == none &&
      t.slotS == full.slotS) = true := by decide

/-- P2 line 6. -/
theorem test_takeS : after (exec .takeS full) (fun t =>
    t.responses == [.record (.sensor ⟨⟨1, 2, 3, 4, 5, 6, 7, 8, 9⟩, some 2⟩)] && t.slotS == none &&
      t.slotB == full.slotB) = true := by decide

/-- V35. -/
theorem test_takeS_empty : after (exec .takeS (State.fresh .WC)) (fun t =>
    t.responses == [.empty] && t.slotS == none) = true := by decide

/-- V36. -/
theorem test_takeB : after (exec .takeB full) (fun t =>
    t.responses == [.record (.battery ⟨⟨3700⟩, some 7⟩)] && t.slotB == none &&
      t.slotQ == full.slotQ) = true := by decide

/-- V37. -/
theorem test_peekQ : after (exec .peekQ full) (fun t =>
    t.responses == [.flag true] && t.slotQ == full.slotQ) = true := by decide

/-- V38. -/
theorem test_peekS : after (exec .peekS { full with slotS := none }) (fun t =>
    t.responses == [.flag false]) = true := by decide

/-- V40. -/
theorem test_peekB : after (exec .peekB { full with slotB := none }) (fun t =>
    t.responses == [.flag false] && t.slotQ == full.slotQ) = true := by decide

/-- V45: WP = 22, CNT = 21, RDY_B, REV, SYNC = 0. -/
theorem test_status_V45 :
    after (exec .status { State.fresh .WC with wp := 22, cnt := 21, slotB := some ⟨⟨1⟩, some 1⟩ })
      (fun t => t.responses == [.status 0x00161518]) = true := by decide

/-- V43. -/
theorem test_status_V43 : after (exec .status (State.fresh .NC)) (fun t =>
    t.responses == [.status 0x00000000]) = true := by decide

/-- V13: at byte 11 a Q and a B window pass, and Q wins. -/
theorem test_frameQWC_V13 :
    after (exec (.frameQWC ⟨0x5100, 0, 0x0042, 0⟩ 0 0x42) (State.fresh .WC)) (fun t =>
      t.slotQ == some ⟨⟨20736, 0, 66, 0⟩, some 0⟩ && t.slotB == none) = true := by decide +kernel

/-- V27: a false Battery decode inside the frame loses it. -/
theorem test_frameQWC_V27 :
    after (exec (.frameQWC ⟨0x4201, 0x4300, 0, 0⟩ 0 0x51) (State.fresh .WC)) (fun t =>
      t.slotB == some ⟨⟨323⟩, some 0⟩ && t.slotQ == none && t.wp == 5 && t.sync == .InSync) = true := by
  decide +kernel

/-- V5. -/
theorem test_frameQNC_V5 : after (exec (.frameQNC ⟨1, 2, 3, 4⟩ 0x55) (State.fresh .NC)) (fun t =>
    t.slotQ == some ⟨⟨1, 2, 3, 4⟩, none⟩ && t.sync == .InSync) = true := by decide +kernel

/-- V29: a frame of the other revision. -/
theorem test_frameQNC_V29 : after (exec (.frameQNC ⟨1, 2, 3, 4⟩ 0x55) (State.fresh .WC)) (fun t =>
    t.slotQ == none && t.wp == 10 && t.cnt == 10 && t.sync == .OutOfSync) = true := by decide +kernel

/-- V2. -/
theorem test_frameSWC_V2 :
    after (exec (.frameSWC ⟨1, -1, 32767, -32768, 5, 6, 7, 8, 9⟩ 255 0xA8) (State.fresh .WC)) (fun t =>
      t.slotS == some ⟨⟨1, -1, 32767, -32768, 5, 6, 7, 8, 9⟩, some 255⟩ && t.wp == 0) = true := by
  decide +kernel

/-- V26: false lock inside the frame. -/
theorem test_frameSWC_V26 :
    after (exec (.frameSWC ⟨0x4201, 0x4300, 0, 0, 0, 0, 0, 0, 0⟩ 0 0x53) (State.fresh .WC)) (fun t =>
      t.slotB == some ⟨⟨323⟩, some 0⟩ && t.slotS == none && t.wp == 15 && t.cnt == 15) = true := by
  decide +kernel

/-- V6. -/
theorem test_frameSNC_V6 :
    after (exec (.frameSNC ⟨1, -1, 32767, -32768, 5, 6, 7, 8, 9⟩ 0x57) (State.fresh .NC)) (fun t =>
      t.slotS == some ⟨⟨1, -1, 32767, -32768, 5, 6, 7, 8, 9⟩, none⟩) = true := by decide +kernel

/-- V4. -/
theorem test_frameBWC_V4 : after (exec (.frameBWC ⟨-2⟩ 0 0x43) (State.fresh .WC)) (fun t =>
    t.slotB == some ⟨⟨-2⟩, some 0⟩) = true := by decide +kernel

/-- V7. -/
theorem test_frameBNC_V7 : after (exec (.frameBNC ⟨3700⟩ 0x38) (State.fresh .NC)) (fun t =>
    t.slotB == some ⟨⟨3700⟩, none⟩ && t.responses == List.replicate 4 .ack) = true := by decide +kernel

/-! ### Illegal words and reset -/

/-- V48: the block answers `Illegal(0x203)` and changes nothing else. -/
theorem test_illegal_word :
    blockStep { full with pending := [.offer (.word 0x203)] } =
      { full with responses := [.illegal 0x203] } := by decide

/-- V52, with an InSync block in the middle of a frame. -/
theorem test_reset :
    after (run 2 { holding .WC .InSync v1Open with slotB := some ⟨⟨1⟩, some 1⟩
                                                   pending := [.assertRst, .deassertRst] })
      (fun t => t == State.fresh .WC && t.statusWord == 0x00000010) = true := by decide

/-- R121: a word offered at power-up is not accepted, and after a reset the next one is. -/
theorem test_power_up :
    after (run 4 (State.powerUp { full with
        pending := [.offer (.word 0x200), .assertRst, .deassertRst, .offer (.word 0x400)] }))
      (fun t => t.slotQ == none && t.responses == [.status 0x00000010]) = true := by decide +kernel

/-! ### The assembler (R68, R69) -/

/-- P5 lines 1 and 5, with a label, a comment and a character literal. -/
theorem test_assembler :
    Assembler.listingWords .NC
      ["send: SENDB 3700".toList, ".word 0x203 ; illegal".toList, "FEED 'Q'".toList,
       "DRAIN".toList, "SENDB -2".toList, "FEED 255".toList] =
      some [0x142, 0x10E, 0x174, 0x138, 0x203, 0x151, 0x200, 0x201, 0x202,
        0x142, 0x1FF, 0x1FE, 0x143, 0x1FF] := by decide

/-! ### Field values (vectors of "Field assembly and arithmetic") -/

theorem test_sext16 :
    sext16 (be16 0x00 0x00) = 0 ∧ sext16 (be16 0x7F 0xFF) = 32767 ∧
    sext16 (be16 0x80 0x00) = -32768 ∧ sext16 (be16 0xFF 0xFF) = -1 ∧
    sext16 (be16 0x0E 0x74) = 3700 ∧ sext16 (be16 0x42 0x01) = 16897 := by decide

/-! ### Witnesses: states that meet the hypotheses of the statements -/

/-- A block with a legal and an illegal word offered. -/
def offered : State :=
  { full with pending := [.offer (.word 0x400), .offer (.word 0x203)] }

theorem witness_EncodeAfterDecode : decode (.word 0x1FF) = .ok (.feed 0xFF) ∧
    decode (.burst [0x42, 0x0E, 0x74, 0x38]) = .ok (.frameBNC ⟨3700⟩ 0x38) := by decide

theorem witness_IllegalWords :
    { offered with pending := offered.pending.tail }.pending = [HostEvent.offer (.word 0x203)] ∧
    offered.rst = false ∧ offered.awaitingReset = false ∧ decode (.word 0x203) = .error .reservedType := by decide

theorem witness_CorrectFrameReducesToZero :
    encode (.frameBNC ⟨3700⟩ 0x38) = .burst [0x42, 0x0E, 0x74, 0x38] := by decide

theorem witness_SendIsFeedsOfCorrectFrame :
    Assembler.sendQ .WC ⟨1, 2, 3, 4⟩ (some 1) = some (.frameQWC ⟨1, 2, 3, 4⟩ 1 0x54) ∧
    Assembler.sendS .NC ⟨1, -1, 32767, -32768, 5, 6, 7, 8, 9⟩ none =
      some (.frameSNC ⟨1, -1, 32767, -32768, 5, 6, 7, 8, 9⟩ 0x57) ∧
    Assembler.sendB .WC ⟨3700⟩ (some 7) = some (.frameBWC ⟨3700⟩ 7 0x3F) ∧
    encode (.frameBWC ⟨3700⟩ 7 0x3F) = .burst [0x42, 0x0E, 0x74, 0x07, 0x3F] := by decide

theorem witness_StepRunsDecodedInstruction :
    offered.pending = [.offer (.word 0x400), .offer (.word 0x203)] ∧ offered.rst = false ∧
    decode (.word 0x400) = .ok .status := by decide

theorem witness_IdleHoldsState : full.pending = [] := by decide

/-- The four clauses: `rst` asserted, a word offered meanwhile, `rst` deasserted, and deasserted when it
was not asserted. -/
theorem witness_ResetInput :
    { full with pending := [.assertRst] }.pending = [HostEvent.assertRst] ∧
    { offered with rst := true }.rst = true ∧ offered.pending.head? = some (.offer (.word 0x400)) ∧
    { full with pending := [.deassertRst], rst := true }.pending = [HostEvent.deassertRst] ∧
    { full with pending := [.deassertRst], rst := true }.rst = true ∧
    { full with pending := [.deassertRst] }.rst = false := by decide

/-- A reset block meets one of the two clauses of the status word, whichever the open revision is. -/
theorem witness_ResetValues : State.reset.rev = .NC ∨ State.reset.rev = .WC := by
  cases State.reset.rev
  · exact Or.inr rfl
  · exact Or.inl rfl

/-- Invariant states at the ends of the range: full mailboxes, InSync at `MAXLEN`, OutOfSync at 255. -/
theorem witness_StepKeepsInvariant :
    offered.Inv ∧ (∃ t, step offered = .next t) ∧
    (holding .WC .InSync (v2Open ++ [0x00])).Inv ∧
    (holding .WC .InSync (v2Open ++ [0x00])).sync = .InSync ∧
    { State.fresh .NC with wp := 255, cnt := 20 }.Inv :=
  ⟨by decide, ⟨_, rfl⟩, by decide, by decide, by decide⟩

theorem witness_NoStepChangesRevision : ∃ t, step offered = .next t := ⟨_, rfl⟩

theorem witness_LegalRunsNeverStop :
    { full with pending := [.assertRst, .deassertRst, .offer (.word 0x1FF), .offer (.burst [0x51])] }.pending.all
      legalEvent = true := by decide

/-- Two blocks that differ in a stale byte. -/
theorem witness_StaleBytesAreUnobservable :
    (holding .WC .OutOfSync [0x42]).SameButStale
      { holding .WC .OutOfSync [0x42] with window := [(0, 0x42), (7, 0x99)] } ∧
    Memory.wf (holding .WC .OutOfSync [0x42]).window = true ∧
    Memory.wf [(0, (0x42 : Byte)), (7, 0x99)] = true := by
  refine ⟨⟨rfl, fun i hi => ?_⟩, by decide, by decide⟩
  have h : i = 0 := by
    have : (holding .WC .OutOfSync [0x42]).wp.toNat = 1 := rfl
    omega
  subst h
  rfl

theorem witness_FeedAppendsAtPointer :
    Memory.wf (holding .WC .OutOfSync v1Open).window = true ∧
    (holding .WC .OutOfSync v1Open).decodedBy 0x55 = none := by decide

/-- A FEED with no decode below and at the clamp, in both revisions, and at the last count of 8 bits. -/
theorem witness_FeedCountsAndClamps :
    { aligned .WC with cnt := 20, wp := 20 }.decodedBy 0 = none ∧
    { aligned .WC with cnt := 21, wp := 21 }.decodedBy 0 = none ∧
    { aligned .NC with cnt := 20, wp := 20 }.decodedBy 0 = none ∧
    { aligned .WC with cnt := 255, wp := 21 }.decodedBy 0 = none := by decide

/-- The tests written out, as the statement's `pass`, for the last byte of V1. -/
theorem witness_FeedDecodesFirstTypeThatPasses :
    ∃ pass : PacketType → Prop, ∀ t, pass t ↔
      (frameLen .WC t ≤ ((holding .WC .OutOfSync v1Open).receiveByte 0x54).wp.toNat ∧
        ((holding .WC .OutOfSync v1Open).receiveByte 0x54).windowByte
          (if ((holding .WC .OutOfSync v1Open).receiveByte 0x54).sync = .InSync then 0 else
            ((holding .WC .OutOfSync v1Open).receiveByte 0x54).wp.toNat - frameLen .WC t) = tag t ∧
        xorBytes ((List.range (frameLen .WC t)).map fun k =>
          ((holding .WC .OutOfSync v1Open).receiveByte 0x54).windowByte
            (((holding .WC .OutOfSync v1Open).receiveByte 0x54).wp.toNat - frameLen .WC t + k)) = 0) :=
  ⟨_, fun _ => Iff.rfl⟩

theorem witness_FeedRejectionChangesNothing :
    (holding .WC .OutOfSync v1Open).decodedBy 0x55 = none ∧
    (holding .WC .OutOfSync v1Open).passes .Q = false := by decide

/-- A decode of each type. -/
theorem witness_FeedDecodePublishesRecord :
    (holding .WC .OutOfSync v1Open).decodedBy 0x54 = some .Q ∧
    (holding .WC .OutOfSync v2Open).decodedBy 0xA8 = some .S ∧
    (holding .NC .InSync [0x42, 0x0E, 0x74]).decodedBy 0x38 = some .B := by decide

/-- The wrap, and the last pointer below the gate of each clause. -/
theorem witness_WrapSuppressesDecode :
    { State.fresh .WC with wp := 255 }.wp.toNat = 255 ∧
    (({ State.fresh .WC with wp := 255 } : State).wp.toNat + 1) % 256 < frameLen .WC .Q ∧
    (({ State.fresh .NC with wp := 2 } : State).wp.toNat + 1) % 256 < frameLen .NC .B := by decide

/-- A Battery frame whose last byte is the 22nd after a decode. -/
def saturating : State :=
  { aligned .WC with window := cells 17 [0x42, 0x00, 0x01, 0x01], wp := 21, cnt := 21 }

theorem witness_SaturatingFeedCanRegainSync :
    saturating.sync = .InSync ∧ saturating.cnt.toNat = maxLen saturating.rev ∧
    frameLen saturating.rev .B ≤ (saturating.receiveByte 0x42).wp.toNat ∧
    (saturating.receiveByte 0x42).windowByte
      ((saturating.receiveByte 0x42).wp.toNat - frameLen saturating.rev .B) = tag .B ∧
    (saturating.receiveByte 0x42).xorRange
      ((saturating.receiveByte 0x42).wp.toNat - frameLen saturating.rev .B)
      (frameLen saturating.rev .B) = 0 ∧
    (∀ u ∈ earlierTypes .B, frameLen saturating.rev u ≤ (saturating.receiveByte 0x42).wp.toNat →
      (saturating.receiveByte 0x42).windowByte
        ((saturating.receiveByte 0x42).wp.toNat - frameLen saturating.rev u) ≠ tag u) := by decide

/-- One byte of padding after a decode (V25), and the last count before the clamp. -/
theorem witness_PaddingBlocksFastPath :
    { aligned .WC with wp := 1, cnt := 1 }.Inv ∧ { aligned .WC with wp := 20, cnt := 20 }.Inv ∧
    (∀ t, ({ aligned .WC with wp := 1, cnt := 1 } : State).windowByte 0 ≠ tag t) ∧
    ({ aligned .WC with wp := 20, cnt := 20 } : State).cnt.toNat < maxLen .WC := by
  refine ⟨by decide, by decide, fun t => ?_, by decide⟩
  cases t <;> decide

/-- V9: V1 with one bit of byte 3 flipped. -/
theorem witness_OneWrongByteFailsChecksum :
    (holding .WC .OutOfSync (v1Open ++ [0x54])).passes .Q = true ∧
    (holding .WC .OutOfSync (v1Open ++ [0x54])).windowByte 3 ≠
      (holding .WC .OutOfSync ((v1Open ++ [0x54]).set 3 0x10)).windowByte 3 ∧
    (∀ k, k ≠ 3 → k < 256 → (holding .WC .OutOfSync (v1Open ++ [0x54])).windowByte k =
      (holding .WC .OutOfSync ((v1Open ++ [0x54]).set 3 0x10)).windowByte k) := by
  refine ⟨by decide, by decide, fun k hk _ => ?_⟩
  have h : k % 256 = k := by omega
  simp [State.windowByte, Config.capacity, h, holding, cells, v1Open, readCell, hk]

/-- A frame, and a group of bytes that is none, offered to a block. -/
theorem witness_Bursts :
    encode (.frameBNC ⟨3700⟩ 0x38) = .burst [0x42, 0x0E, 0x74, 0x38] ∧
    { full with pending := [.offer (.burst [0x42, 0x0E])] }.pending = [.offer (.burst [0x42, 0x0E])] ∧
    full.rst = false ∧ full.awaitingReset = false ∧ Memory.wf full.window = true := by decide

/-- An aligned block and two Quaternion frames (V16). -/
theorem witness_AlignedStreamIsDecoded :
    (∀ i ∈ [Instr.frameQWC ⟨1, 2, 3, 4⟩ 1 0x54, .frameQWC ⟨9, 8, 7, 6⟩ 2 0x53],
      i.wellFormed = true ∧ ∃ r, i.frameRecord = some ((aligned .WC).rev, r)) ∧
    Memory.wf (aligned .WC).window = true ∧ (aligned .WC).sync = .InSync ∧ (aligned .WC).wp = 0 ∧
    (aligned .WC).cnt = 0 := by
  refine ⟨fun i hi => ?_, by decide, by decide, by decide, by decide⟩
  simp only [List.mem_cons, List.not_mem_nil, or_false] at hi
  rcases hi with rfl | rfl
  · exact ⟨by decide, _, rfl⟩
  · exact ⟨by decide, _, rfl⟩

/-- Frames of both sides of the condition: V1 meets it, V27 has a window inside. -/
theorem witness_RoundTrip :
    Instr.wellFormed (.frameQWC ⟨1, 2, 3, 4⟩ 1 0x54) = true ∧
    Instr.wellFormed (.frameQWC ⟨0x4201, 0x4300, 0, 0⟩ 0 0x51) = true ∧
    Instr.frameRecord (.frameQWC ⟨1, 2, 3, 4⟩ 1 0x54) =
      some (.WC, .quaternion ⟨⟨1, 2, 3, 4⟩, some 1⟩) ∧
    windowPasses .WC [0x51, 0x42, 0x01, 0x43, 0x00, 0x00, 0x00, 0x00, 0x00, 0x00, 0x51] 6 .B = true ∧
    windowPasses .WC [0x51, 0x00, 0x01, 0x00, 0x02, 0x00, 0x03, 0x00, 0x04, 0x01, 0x54] 6 .B = false := by
  decide

/-- A block ready to resync, at the last pointer from which a Battery frame stays below the wrap, and at
the first from which it does not (V22, V23). -/
theorem witness_Resync :
    ({ State.fresh .WC with wp := 250, cnt := 21 } : State).sync = .OutOfSync ∧
    ({ State.fresh .WC with wp := 250, cnt := 21 } : State).cnt.toNat = maxLen .WC ∧
    after (exec (.frameBWC ⟨3700⟩ 7 0x3F) { State.fresh .WC with wp := 250, cnt := 21 })
      (fun t => t.slotB == some ⟨⟨3700⟩, some 7⟩) = true ∧
    after (exec (.frameBWC ⟨3700⟩ 7 0x3F) { State.fresh .WC with wp := 251, cnt := 21 })
      (fun t => t.slotB == none && t.wp == 0) = true := by decide +kernel

/-- PEEK of a full and of an empty mailbox. -/
theorem witness_PeekReturnsReadyFlag :
    after (exec .peekQ full) (fun u => u.responses == full.responses ++ [.flag true]) = true ∧
    after (exec .peekQ (State.fresh .WC)) (fun u => u.responses == [.flag false]) = true := by decide

/-- A command that answers, and is not FEED. -/
theorem witness_Commands :
    isCommand .takeQ = true ∧ (∀ b, Instr.takeQ ≠ .feed b) ∧ (∃ t, exec .takeQ full = .next t) :=
  ⟨by decide, fun _ => nofun, ⟨_, rfl⟩⟩

/-- Sync lost by the 22nd byte (V18), and gained by a decode (V1). -/
theorem witness_SyncChanges :
    after (exec (.feed 0) { aligned .WC with wp := 21, cnt := 21 }) (fun t => t.sync == .OutOfSync) =
      true ∧
    after (exec (.feed 0x54) (holding .WC .OutOfSync v1Open)) (fun t => t.sync == .InSync) = true := by
  decide

/-- A mailbox filled by a decode and emptied by its TAKE. -/
theorem witness_MailboxChanges :
    after (exec (.feed 0x54) (holding .WC .OutOfSync v1Open)) (fun t => t.slot .Q != none) = true ∧
    after (exec .takeQ full) (fun t => t.slot .Q != full.slot .Q) = true := by decide

end Sys2Proof.Tests
end

section
/-! SUPPORT. The step on an offered unit that decodes to an instruction. -/

namespace Sys2Proof.Machine

/-- A block that accepts a unit runs the instruction it decodes to (R14, R50). -/
theorem accept_of_decode_ok {x : Encoded} {i : Instr} (h : decode x = .ok i) (s : State) :
    accept x s = exec i s := by
  simp only [accept, h]

/-- Settles O8: outside reset the block accepts the offered unit, and accepting it runs what it decodes
to. -/
theorem stepRunsDecodedInstruction : Obligations.StepRunsDecodedInstruction := by
  intro s x es i hpending hrst hawaiting hdecode
  have haccepts : s.acceptsCommands = true := (acceptsCommands_iff s).2 ⟨hrst, hawaiting⟩
  calc step s
      = accept x { s with pending := es } := step_offer hpending haccepts
    _ = exec i { s with pending := es } := accept_of_decode_ok hdecode _

end Sys2Proof.Machine
end

section
/-! SUPPORT. What an instruction and an accepted unit can do to any state, and what a TAKE leaves of each
field. -/

namespace Sys2Proof.Machine

/-! ### TAKE, field by field (R93) -/

@[simp] theorem take_window (s : State) (t : PacketType) : (s.take t).window = s.window := by
  simp [State.take]

@[simp] theorem take_wp (s : State) (t : PacketType) : (s.take t).wp = s.wp := by
  simp [State.take]

@[simp] theorem take_cnt (s : State) (t : PacketType) : (s.take t).cnt = s.cnt := by
  simp [State.take]

@[simp] theorem take_sync (s : State) (t : PacketType) : (s.take t).sync = s.sync := by
  simp [State.take]

@[simp] theorem take_rev (s : State) (t : PacketType) : (s.take t).rev = s.rev := by
  simp [State.take]

@[simp] theorem take_rst (s : State) (t : PacketType) : (s.take t).rst = s.rst := by
  simp [State.take]

@[simp] theorem take_awaitingReset (s : State) (t : PacketType) :
    (s.take t).awaitingReset = s.awaitingReset := by
  simp [State.take]

@[simp] theorem take_pending (s : State) (t : PacketType) : (s.take t).pending = s.pending := by
  simp [State.take]

/-! ### Every meaning is one of four -/

/-- A FEED, a TAKE, an answer that reads no window byte (NOP, PEEK and STATUS), or the bytes of a frame. -/
theorem exec_cases (i : Instr) :
    (∃ b, i = .feed b ∧ ∀ s, exec i s = .next (s.feedByte b)) ∨
    (∃ p, i = takeInstr p ∧ ∀ s, exec i s = .next (s.take p)) ∨
    (∃ answer : State → Response,
      ∀ s, exec i s = .next (s.respond (answer { s with window := [] }))) ∨
    (∃ bytes, encode i = .burst bytes ∧ ∀ s, exec i s = .next (s.feedBytes bytes)) := by
  cases i with
  | feed b => exact .inl ⟨b, rfl, fun _ => rfl⟩
  | takeQ => exact .inr (.inl ⟨.Q, rfl, fun _ => rfl⟩)
  | takeS => exact .inr (.inl ⟨.S, rfl, fun _ => rfl⟩)
  | takeB => exact .inr (.inl ⟨.B, rfl, fun _ => rfl⟩)
  | nop => exact .inr (.inr (.inl ⟨fun _ => .ack, fun _ => rfl⟩))
  | peekQ => exact .inr (.inr (.inl ⟨fun s => .flag (s.ready .Q), fun _ => rfl⟩))
  | peekS => exact .inr (.inr (.inl ⟨fun s => .flag (s.ready .S), fun _ => rfl⟩))
  | peekB => exact .inr (.inr (.inl ⟨fun s => .flag (s.ready .B), fun _ => rfl⟩))
  | status => exact .inr (.inr (.inl ⟨fun s => .status s.statusWord, fun _ => rfl⟩))
  | frameQWC | frameQNC | frameSWC | frameSNC | frameBWC | frameBNC =>
    exact .inr (.inr (.inr ⟨_, rfl, exec_streamBytes rfl⟩))

/-- What a command can leave: frames are no commands (R70). -/
theorem command_cases {i : Instr} {s t : State} (hi : isCommand i = true) (h : exec i s = .next t) :
    (∃ b, i = .feed b ∧ t = s.feedByte b) ∨ (∃ p, i = takeInstr p ∧ t = s.take p) ∨
      ∃ v, t = s.respond v := by
  rcases exec_cases i with ⟨b, hb, he⟩ | ⟨p, hp, he⟩ | ⟨answer, he⟩ | ⟨bytes, hburst, -⟩
  · exact .inl ⟨b, hb, Host.Outcome.next.inj (h.symm.trans (he s))⟩
  · exact .inr (.inl ⟨p, hp, Host.Outcome.next.inj (h.symm.trans (he s))⟩)
  · exact .inr (.inr ⟨_, Host.Outcome.next.inj (h.symm.trans (he s))⟩)
  · simp [isCommand, hburst] at hi

/-- What accepting a unit does, in one form for all states: an illegal word faults (R107), and every other
unit feeds bytes, takes a mailbox, or gives an answer that reads no window byte. -/
theorem accept_cases (x : Encoded) :
    (∃ c, ∀ s, accept x s = .fault (.illegalCommand c)) ∨
    (∃ bytes, ∀ s, accept x s = .next (s.feedBytes bytes)) ∨
    (∃ p, ∀ s, accept x s = .next (s.take p)) ∨
    (∃ answer : State → Response,
      ∀ s, accept x s = .next (s.respond (answer { s with window := [] }))) := by
  cases hd : decode x with
  | ok i =>
    simp only [accept_of_decode_ok hd]
    rcases exec_cases i with ⟨b, -, he⟩ | ⟨p, -, he⟩ | ⟨answer, he⟩ | ⟨bytes, -, he⟩
    · exact .inr (.inl ⟨[b], he⟩)
    · exact .inr (.inr (.inl ⟨p, he⟩))
    · exact .inr (.inr (.inr ⟨answer, he⟩))
    · exact .inr (.inl ⟨bytes, he⟩)
  | error r =>
    simp only [accept, hd]
    cases x with
    | word c => exact .inl ⟨c, fun _ => rfl⟩
    | burst bytes => exact .inr (.inl ⟨bytes, fun _ => rfl⟩)

end Sys2Proof.Machine
end

section
/-! SUPPORT. The invariant of the block (R31, R32, R59): it holds at reset and every operation keeps it. -/

namespace Sys2Proof.Machine

theorem maxLen_lt_256 (rev : Rev) : maxLen rev < 256 := maxLen_lt_capacity rev

theorem slotsMatchRev_iff (s : State) :
    s.slotsMatchRev = true ↔
      ∀ p r, s.slot p = some r → r.counter.isSome = hasCounter s.rev := by
  have hall (f : PacketType → Bool) : [PacketType.Q, .S, .B].all f = true ↔ ∀ p, f p = true := by
    refine ⟨fun h p => List.all_eq_true.1 h p (by cases p <;> simp), fun h => ?_⟩
    exact List.all_eq_true.2 fun p _ => h p
  rw [State.slotsMatchRev, hall]
  refine forall_congr' fun p => ?_
  cases s.slot p <;> simp

/-- A decoded record carries a counter exactly when the revision has one (R59). -/
theorem decodeRecord_counter (s : State) (p : PacketType) (base : Nat) :
    (s.decodeRecord p base).counter.isSome = hasCounter s.rev := by
  have hcounter : (s.counterAt p base).isSome = hasCounter s.rev := by
    unfold State.counterAt
    split <;> simp_all
  cases p <;> exact hcounter

theorem fresh_inv (rev : Rev) : (State.fresh rev).Inv :=
  ⟨rfl, Nat.zero_le _, nofun, rfl⟩

theorem resetBlock_inv (s : State) : s.resetBlock.Inv := fresh_inv s.rev

theorem respond_inv {s : State} (h : s.Inv) (v : Response) : (s.respond v).Inv := h

/-- Only the block's own registers are in the invariant, not the host's side nor the reset input. -/
theorem hostSide_inv {s : State} (h : s.Inv) (rst : Bool) (es : List HostEvent) :
    { s with pending := es, rst := rst }.Inv := h

theorem take_inv {s : State} (h : s.Inv) (p : PacketType) : (s.take p).Inv := by
  obtain ⟨hwf, hcnt, hsync, hslots⟩ := h
  rw [slotsMatchRev_iff] at hslots
  refine ⟨by simpa using hwf, by simpa using hcnt, by simpa using hsync, ?_⟩
  rw [slotsMatchRev_iff]
  intro q r hr
  rw [slot_take] at hr
  split at hr
  · cases hr
  · simpa using hslots q r hr

/-- Steps 1 and 2 of FEED: while InSync the two counters rise together, and the clamp of R73 comes with the
loss of sync, so `wp` stays below `MAXLEN` and does not wrap. -/
theorem receiveByte_inv {s : State} (h : s.Inv) (b : Byte) : (s.receiveByte b).Inv := by
  obtain ⟨hwf, hcnt, hsync, hslots⟩ := h
  have hmax := maxLen_lt_256 s.rev
  refine ⟨receiveByte_wf hwf b, ?_, fun hin => ?_, ?_⟩
  · simp only [receiveByte_cnt, receiveByte_rev, BitVec.toNat_ofNat]
    omega
  · rw [receiveByte_sync] at hin
    split at hin
    · cases hin
    · next hroom =>
      obtain ⟨hwp, -⟩ := hsync hin
      have hmin : min (maxLen s.rev) (s.cnt.toNat + 1) = s.cnt.toNat + 1 := by omega
      have hmod : (s.cnt.toNat + 1) % 256 = s.cnt.toNat + 1 := Nat.mod_eq_of_lt (by omega)
      simp only [receiveByte_wp, receiveByte_cnt, receiveByte_rev, hwp, hmin, Config.capacity, hmod,
        BitVec.toNat_ofNat, true_and]
      omega
  · rw [slotsMatchRev_iff] at hslots ⊢
    simpa using hslots

/-- A decode moves the origin and stores a record of the revision's shape (R79 to R82). -/
theorem decodeType_inv {s : State} (h : s.Inv) (p : PacketType) : (s.decodeType p).Inv := by
  obtain ⟨hwf, -, -, hslots⟩ := h
  refine ⟨by simpa using hwf, by simp, fun _ => by simp, ?_⟩
  rw [slotsMatchRev_iff] at hslots ⊢
  intro q r hr
  rw [slot_decodeType] at hr
  rw [decodeType_rev]
  split at hr
  · cases hr
    exact decodeRecord_counter s p _
  · exact hslots q r hr

theorem feedByte_inv {s : State} (h : s.Inv) (b : Byte) : (s.feedByte b).Inv := by
  have hm := receiveByte_inv h b
  cases hf : (s.receiveByte b).firstPassing with
  | none => exact feedByte_of_none hf ▸ respond_inv hm .ack
  | some p => exact feedByte_of_some hf ▸ respond_inv (decodeType_inv hm p) .ack

theorem feedBytes_inv {s : State} (h : s.Inv) (bytes : List Byte) : (s.feedBytes bytes).Inv := by
  induction bytes generalizing s with
  | nil => exact h
  | cons b bytes ih => exact ih (feedByte_inv h b)

theorem accept_inv {x : Encoded} {s t : State} (h : s.Inv) (ha : accept x s = .next t) : t.Inv := by
  rcases accept_cases x with ⟨c, he⟩ | ⟨bytes, he⟩ | ⟨p, he⟩ | ⟨answer, he⟩ <;> rw [he s] at ha <;>
    cases ha
  · exact feedBytes_inv h bytes
  · exact take_inv h p
  · exact respond_inv h _

theorem step_inv {s t : State} (h : s.Inv) (hs : step s = .next t) : t.Inv := by
  cases hp : s.pending with
  | nil =>
    rw [step_idle hp] at hs
    cases hs
    exact h
  | cons e es =>
    cases e with
    | assertRst =>
      rw [step_assertRst hp] at hs
      cases hs
      exact hostSide_inv h true es
    | deassertRst =>
      cases hr : s.rst with
      | true =>
        rw [step_deassertRst hp hr] at hs
        cases hs
        exact resetBlock_inv _
      | false =>
        rw [step_deassertRst_low hp hr] at hs
        cases hs
        exact hostSide_inv h s.rst es
    | offer x =>
      have hdropped := hostSide_inv h s.rst es
      cases ha : s.acceptsCommands with
      | true => exact accept_inv hdropped (step_offer hp ha ▸ hs)
      | false =>
        rw [step_offer_not_accepted hp ha] at hs
        cases hs
        exact hdropped

/-- Settles O13: every event keeps the invariant, and under it an InSync pointer is at most `MAXLEN`. -/
theorem stepKeepsInvariant : Obligations.StepKeepsInvariant := by
  refine ⟨fun s t h hs => step_inv h hs, fun s h hin => ?_⟩
  obtain ⟨-, -, hsync, -⟩ := h
  obtain ⟨-, hwp⟩ := hsync hin
  have hmax : maxLen s.rev ≤ 21 := by cases s.rev <;> decide
  omega

/-- Settles O12: both revisions' reset states meet the invariant. -/
theorem invariantHoldsAtReset : Obligations.InvariantHoldsAtReset :=
  fresh_inv Config.rev

end Sys2Proof.Machine
end

section
/-! SUPPORT. What a command can observe of a state (R33): two states that differ only in window bytes at
`wp` and above go on differing only there. -/

namespace Sys2Proof.Machine

/-! ### The relation -/

/-- The second state is the first with another window, equal below `wp`. -/
theorem sameButStale_iff {s t : State} :
    s.SameButStale t ↔
      ∃ w, t = { s with window := w } ∧
        ∀ i, i < s.wp.toNat → s.windowByte i = t.windowByte i := by
  constructor
  · rintro ⟨hfields, hbytes⟩
    refine ⟨t.window, ?_, hbytes⟩
    exact congrArg (fun u : State => { u with window := t.window }) hfields.symm
  · rintro ⟨w, rfl, hbytes⟩
    exact ⟨rfl, hbytes⟩

section
variable {s t : State}

theorem State.SameButStale.wp_eq (h : s.SameButStale t) : t.wp = s.wp := by
  obtain ⟨w, rfl, -⟩ := sameButStale_iff.1 h
  rfl

theorem State.SameButStale.rev_eq (h : s.SameButStale t) : t.rev = s.rev := by
  obtain ⟨w, rfl, -⟩ := sameButStale_iff.1 h
  rfl

theorem State.SameButStale.tagPosition_eq (h : s.SameButStale t) (p : PacketType) :
    t.tagPosition p = s.tagPosition p := by
  obtain ⟨w, rfl, -⟩ := sameButStale_iff.1 h
  rfl

theorem State.SameButStale.candidateStart_eq (h : s.SameButStale t) (p : PacketType) :
    t.candidateStart p = s.candidateStart p := by
  obtain ⟨w, rfl, -⟩ := sameButStale_iff.1 h
  rfl

/-! ### What the match procedure reads is below `wp` -/

theorem tagPosition_lt_wp {p : PacketType} (hgate : frameLen s.rev p ≤ s.wp.toNat) :
    s.tagPosition p < s.wp.toNat := by
  have hlen := four_le_frameLen s.rev p
  cases hs : s.sync with
  | InSync =>
    rw [tagPosition_inSync hs]
    omega
  | OutOfSync =>
    rw [tagPosition_outOfSync hs]
    omega

theorem State.SameButStale.passes_eq (h : s.SameButStale t) (p : PacketType) :
    s.passes p = t.passes p := by
  rw [Bool.eq_iff_iff, passes_iff, passes_iff, h.wp_eq, h.rev_eq, h.tagPosition_eq]
  refine and_congr_right fun hgate => ?_
  have htag : s.windowByte (s.tagPosition p) = t.windowByte (s.tagPosition p) :=
    h.2 _ (tagPosition_lt_wp hgate)
  have hxor : s.xorRange (s.wp.toNat - frameLen s.rev p) (frameLen s.rev p) =
      t.xorRange (s.wp.toNat - frameLen s.rev p) (frameLen s.rev p) :=
    xorRange_congr fun k hk => h.2 _ (by omega)
  rw [htag, hxor]

theorem State.SameButStale.firstPassing_eq (h : s.SameButStale t) : s.firstPassing = t.firstPassing := by
  rw [State.firstPassing, State.firstPassing, funext h.passes_eq]

/-- Tag and payload are followed by at least the checksum byte (R58). -/
theorem payload_lt_frameLen (rev : Rev) (p : PacketType) : 1 + 2 * fieldCount p < frameLen rev p := by
  unfold frameLen
  omega

theorem State.SameButStale.fieldAt_eq (h : s.SameButStale t) {p : PacketType}
    (hgate : frameLen s.rev p ≤ s.wp.toNat) {k : Nat} (hk : k < fieldCount p) :
    s.fieldAt (s.candidateStart p) k = t.fieldAt (s.candidateStart p) k := by
  have hlen := payload_lt_frameLen s.rev p
  have hstart : s.candidateStart p = s.wp.toNat - frameLen s.rev p := rfl
  rw [State.fieldAt, State.fieldAt, h.2 _ (by omega), h.2 _ (by omega)]

theorem State.SameButStale.counterAt_eq (h : s.SameButStale t) {p : PacketType}
    (hgate : frameLen s.rev p ≤ s.wp.toNat) :
    s.counterAt p (s.candidateStart p) = t.counterAt p (s.candidateStart p) := by
  have hlen := payload_lt_frameLen s.rev p
  have hstart : s.candidateStart p = s.wp.toNat - frameLen s.rev p := rfl
  rw [State.counterAt, State.counterAt, h.rev_eq, h.2 _ (by omega)]

theorem State.SameButStale.decodeRecord_eq (h : s.SameButStale t) {p : PacketType}
    (hgate : frameLen s.rev p ≤ s.wp.toNat) :
    s.decodeRecord p (s.candidateStart p) = t.decodeRecord p (s.candidateStart p) := by
  have hcounter := h.counterAt_eq hgate
  have hfield := fun k => h.fieldAt_eq hgate (k := k)
  cases p <;> simp (disch := decide) only [State.decodeRecord, hcounter, hfield]

/-! ### Every operation keeps the relation -/

theorem State.SameButStale.respond (h : s.SameButStale t) (v : Response) :
    (s.respond v).SameButStale (t.respond v) := by
  obtain ⟨w, rfl, hbytes⟩ := sameButStale_iff.1 h
  exact ⟨rfl, hbytes⟩

theorem State.SameButStale.take (h : s.SameButStale t) (p : PacketType) :
    (s.take p).SameButStale (t.take p) := by
  obtain ⟨w, rfl, hbytes⟩ := sameButStale_iff.1 h
  cases p <;> exact ⟨rfl, hbytes⟩

theorem State.SameButStale.setPending (h : s.SameButStale t) (es : List HostEvent) :
    State.SameButStale { s with pending := es } { t with pending := es } := by
  obtain ⟨w, rfl, hbytes⟩ := sameButStale_iff.1 h
  exact ⟨rfl, hbytes⟩

theorem State.SameButStale.assertRst (h : s.SameButStale t) :
    State.SameButStale { s with rst := true } { t with rst := true } := by
  obtain ⟨w, rfl, hbytes⟩ := sameButStale_iff.1 h
  exact ⟨rfl, hbytes⟩

theorem State.SameButStale.resetBlock (h : s.SameButStale t) :
    s.resetBlock.SameButStale t.resetBlock := by
  obtain ⟨w, rfl, -⟩ := sameButStale_iff.1 h
  exact ⟨rfl, fun _ _ => rfl⟩

/-- The byte received goes to the index that `wp` passes over; at the wrap no index is left below `wp`. -/
theorem State.SameButStale.receiveByte (h : s.SameButStale t) (hs : Memory.wf s.window = true)
    (ht : Memory.wf t.window = true) (b : Byte) :
    (s.receiveByte b).SameButStale (t.receiveByte b) := by
  have hwp := h.wp_eq
  refine ⟨?_, fun i hi => ?_⟩
  · obtain ⟨w, rfl, -⟩ := sameButStale_iff.1 h
    simp
  · have hlt : i < Config.capacity := Nat.lt_trans hi (s.receiveByte b).wp.isLt
    have hle : i < s.wp.toNat + 1 := by
      simp only [receiveByte_wp, BitVec.toNat_ofNat] at hi
      exact Nat.lt_of_lt_of_le hi ((Nat.mod_le _ _).trans (Nat.mod_le _ _))
    rw [windowByte_receiveByte hs b hlt, windowByte_receiveByte ht b hlt, hwp]
    split
    · rfl
    · exact h.2 i (by omega)

/-- After a decode `wp = 0`: only the record matters, and it is read below the old `wp`. -/
theorem State.SameButStale.decodeType (h : s.SameButStale t) {p : PacketType}
    (hgate : frameLen s.rev p ≤ s.wp.toNat) :
    (s.decodeType p).SameButStale (t.decodeType p) := by
  refine ⟨?_, fun i hi => absurd hi (Nat.not_lt_zero i)⟩
  have hrecord := h.decodeRecord_eq hgate
  rw [State.decodeType, State.decodeType, h.candidateStart_eq, hrecord]
  obtain ⟨w, rfl, -⟩ := sameButStale_iff.1 h
  cases State.decodeRecord _ p (s.candidateStart p) <;> rfl

theorem feedByte_wf (hs : Memory.wf s.window = true) (b : Byte) :
    Memory.wf (s.feedByte b).window = true := by
  rw [feedByte_window]
  exact wf_writeCell b hs s.wp.isLt

theorem State.SameButStale.feedByte (h : s.SameButStale t) (hs : Memory.wf s.window = true)
    (ht : Memory.wf t.window = true) (b : Byte) : (s.feedByte b).SameButStale (t.feedByte b) := by
  have hm := h.receiveByte hs ht b
  cases hf : (s.receiveByte b).firstPassing with
  | none =>
    rw [feedByte_of_none hf, feedByte_of_none (hm.firstPassing_eq ▸ hf)]
    exact hm.respond .ack
  | some p =>
    obtain ⟨hgate, -, -⟩ := (passes_iff _ p).1 (firstPassing_passes hf)
    rw [feedByte_of_some hf, feedByte_of_some (hm.firstPassing_eq ▸ hf)]
    exact (hm.decodeType hgate).respond .ack

theorem State.SameButStale.feedBytes (h : s.SameButStale t) (hs : Memory.wf s.window = true)
    (ht : Memory.wf t.window = true) (bytes : List Byte) :
    (s.feedBytes bytes).SameButStale (t.feedBytes bytes) := by
  induction bytes generalizing s t with
  | nil => exact h
  | cons b bytes ih => exact ih (h.feedByte hs ht b) (feedByte_wf hs b) (feedByte_wf ht b)

end

/-! ### Outcomes -/

/-- Two outcomes nothing can tell apart: the same stop, or next states that agree but for stale bytes. -/
def SameOutcomeButStale : Host.Outcome State Fault Refusal → Host.Outcome State Fault Refusal → Prop
  | .next s, .next t => s.SameButStale t
  | .fault f, .fault g => f = g
  | .refused r, .refused q => r = q
  | _, _ => False

theorem SameOutcomeButStale.exists_next {o o' : Host.Outcome State Fault Refusal} {s : State}
    (h : SameOutcomeButStale o o') (ho : o = .next s) : ∃ t, o' = .next t ∧ s.SameButStale t := by
  subst ho
  cases o' with
  | next t => exact ⟨t, rfl, h⟩
  | fault | refused => exact h.elim

theorem SameOutcomeButStale.fault_eq {o o' : Host.Outcome State Fault Refusal} {f : Fault}
    (h : SameOutcomeButStale o o') (ho : o = .fault f) : o' = .fault f := by
  subst ho
  cases o' with
  | fault g => exact congrArg _ (Eq.symm h)
  | next | refused => exact h.elim

section
variable {s t : State}

theorem State.SameButStale.accept_outcome (h : s.SameButStale t) (hs : Memory.wf s.window = true)
    (ht : Memory.wf t.window = true) (x : Encoded) :
    SameOutcomeButStale (accept x s) (accept x t) := by
  rcases accept_cases x with ⟨c, he⟩ | ⟨bytes, he⟩ | ⟨p, he⟩ | ⟨answer, he⟩ <;> rw [he s, he t]
  · rfl
  · exact h.feedBytes hs ht bytes
  · exact h.take p
  · rw [← h.1]
    exact h.respond _

theorem State.SameButStale.step_outcome (h : s.SameButStale t) (hs : Memory.wf s.window = true)
    (ht : Memory.wf t.window = true) : SameOutcomeButStale (step s) (step t) := by
  have hpending : t.pending = s.pending := (congrArg State.pending h.1).symm
  have hrst : t.rst = s.rst := (congrArg State.rst h.1).symm
  have haccepts : t.acceptsCommands = s.acceptsCommands :=
    (congrArg State.acceptsCommands h.1).symm
  cases hp : s.pending with
  | nil =>
    rw [step_idle hp, step_idle (hpending.trans hp)]
    exact h
  | cons e es =>
    have hp' := hpending.trans hp
    have hdropped := h.setPending es
    cases e with
    | assertRst =>
      rw [step_assertRst hp, step_assertRst hp']
      exact hdropped.assertRst
    | deassertRst =>
      cases hr : s.rst with
      | true =>
        rw [step_deassertRst hp hr, step_deassertRst hp' (hrst.trans hr)]
        exact hdropped.resetBlock
      | false =>
        rw [step_deassertRst_low hp hr, step_deassertRst_low hp' (hrst.trans hr)]
        exact hdropped
    | offer x =>
      cases ha : s.acceptsCommands with
      | true =>
        rw [step_offer hp ha, step_offer hp' (haccepts.trans ha)]
        exact hdropped.accept_outcome hs ht x
      | false =>
        rw [step_offer_not_accepted hp ha, step_offer_not_accepted hp' (haccepts.trans ha)]
        exact hdropped

end

/-- Settles O18: FEED reads only below `wp`, and the other commands read no window byte. -/
theorem staleBytesAreUnobservable : Obligations.StaleBytesAreUnobservable := by
  intro s t hs ht h
  have hstep := h.step_outcome hs ht
  exact ⟨fun _ => hstep.exists_next, fun _ => hstep.fault_eq⟩

end Sys2Proof.Machine
end

section
/-! SUPPORT. The status word bit by bit (R29), the levels (R36) and the reset values (R34). -/

namespace Sys2Proof.Machine

theorem syncFlag_iff (s : State) : s.syncFlag = true ↔ s.sync = .InSync := by
  simp [State.syncFlag]

theorem ready_iff (s : State) (p : PacketType) : s.ready p = true ↔ s.slot p ≠ none := by
  simp [State.ready, Option.isSome_iff_ne_none]

theorem readyQ_iff (s : State) : s.ready .Q = true ↔ s.slotQ ≠ none := by
  simp [ready_iff, State.slot]

theorem readyS_iff (s : State) : s.ready .S = true ↔ s.slotS ≠ none := by
  simp [ready_iff, State.slot]

theorem readyB_iff (s : State) : s.ready .B = true ↔ s.slotB ≠ none := by
  simp [ready_iff, State.slot]

/-! ### The fields of the status word -/

theorem toNat_append_eq_add {m n : Nat} (x : BitVec m) (y : BitVec n) :
    (x ++ y).toNat = 2 ^ n * x.toNat + y.toNat := by
  rw [BitVec.toNat_append, ← Nat.shiftLeft_add_eq_or_of_lt y.isLt, Nat.shiftLeft_eq, Nat.mul_comm]

theorem getLsbD_eq_of_digit {n i : Nat} {w : BitVec n} {b : Bool}
    (h : w.toNat / 2 ^ i % 2 = b.toNat) : w.getLsbD i = b := by
  rw [BitVec.getLsbD, Nat.testBit_eq_decide_div_mod_eq, h]
  cases b <;> rfl

theorem extractLsb'_eq_of_digit {n i m : Nat} {w : BitVec n} {x : BitVec m}
    (h : w.toNat / 2 ^ i % 2 ^ m = x.toNat) : w.extractLsb' i m = x := by
  apply BitVec.eq_of_toNat_eq
  rw [BitVec.extractLsb'_toNat, Nat.shiftRight_eq_div_pow, h]

/-- The fields of the status word as digits of its value (R29). -/
theorem statusWord_digits (s : State) :
    s.statusWord.toNat % 2 = s.syncFlag.toNat ∧
    s.statusWord.toNat / 2 % 2 = (s.ready .Q).toNat ∧
    s.statusWord.toNat / 4 % 2 = (s.ready .S).toNat ∧
    s.statusWord.toNat / 8 % 2 = (s.ready .B).toNat ∧
    s.statusWord.toNat / 16 % 2 = (s.rev == .WC).toNat ∧
    s.statusWord.toNat / 32 % 8 = 0 ∧
    s.statusWord.toNat / 256 % 256 = s.cnt.toNat ∧
    s.statusWord.toNat / 65536 % 256 = s.wp.toNat ∧
    s.statusWord.toNat / 16777216 % 256 = 0 := by
  have hwp := s.wp.isLt
  have hcnt := s.cnt.isLt
  have hrev := Bool.toNat_le (s.rev == .WC)
  have hB := Bool.toNat_le (s.ready .B)
  have hS := Bool.toNat_le (s.ready .S)
  have hQ := Bool.toNat_le (s.ready .Q)
  have hsync := Bool.toNat_le s.syncFlag
  have hzeros : (0b000 : BitVec 3).toNat = 0 := rfl
  have hvalue : s.statusWord.toNat =
      65536 * s.wp.toNat + 256 * s.cnt.toNat + 16 * (s.rev == .WC).toNat +
        8 * (s.ready .B).toNat + 4 * (s.ready .S).toNat + 2 * (s.ready .Q).toNat +
        s.syncFlag.toNat := by
    simp only [State.statusWord, BitVec.toNat_setWidth, toNat_append_eq_add, BitVec.toNat_ofBool,
      hzeros]
    omega
  omega

/-- The flags are the five low bits of the status word (R29). -/
theorem statusWord_flags (s : State) :
    s.statusWord.getLsbD 0 = s.syncFlag ∧ s.statusWord.getLsbD 1 = s.ready .Q ∧
    s.statusWord.getLsbD 2 = s.ready .S ∧ s.statusWord.getLsbD 3 = s.ready .B ∧
    s.statusWord.getLsbD 4 = (s.rev == .WC) := by
  obtain ⟨hsync, hQ, hS, hB, hrev, -⟩ := statusWord_digits s
  exact ⟨getLsbD_eq_of_digit (by simpa using hsync), getLsbD_eq_of_digit hQ,
    getLsbD_eq_of_digit hS, getLsbD_eq_of_digit hB, getLsbD_eq_of_digit hrev⟩

/-- The fields of the status word above its flags (R29). -/
theorem statusWord_fields (s : State) :
    s.statusWord.extractLsb' 5 3 = 0 ∧ s.statusWord.extractLsb' 8 8 = s.cnt ∧
    s.statusWord.extractLsb' 16 8 = s.wp ∧ s.statusWord.extractLsb' 24 8 = 0 := by
  obtain ⟨-, -, -, -, -, hlow, hcnt, hwp, hhigh⟩ := statusWord_digits s
  exact ⟨extractLsb'_eq_of_digit hlow, extractLsb'_eq_of_digit hcnt,
    extractLsb'_eq_of_digit hwp, extractLsb'_eq_of_digit hhigh⟩

/-- Settles O39: STATUS answers the status word, whose digits are its fields. -/
theorem statusWordFields : Obligations.StatusWordFields := by
  intro s
  obtain ⟨hsync, hQ, hS, hB, hrev⟩ := statusWord_flags s
  refine ⟨s.statusWord, rfl, ?_, ?_, ?_, ?_, ?_, statusWord_fields s⟩
  · rw [hsync, syncFlag_iff]
  · rw [hQ, readyQ_iff]
  · rw [hS, readyS_iff]
  · rw [hB, readyB_iff]
  · rw [hrev, beq_iff_eq]

/-- Settles O41: the levels are the flags of the status word (R26). -/
theorem levelsMirrorStatusBits : Obligations.LevelsMirrorStatusBits := by
  intro s
  obtain ⟨hsync, hQ, hS, hB, -⟩ := statusWord_flags s
  exact ⟨syncFlag_iff s, readyQ_iff s, readyS_iff s, readyB_iff s, hsync.symm, hQ.symm, hS.symm,
    hB.symm⟩

/-! ### Reset -/

theorem fresh_statusWord_NC : (State.fresh .NC).statusWord = 0x00000000 := by decide

theorem fresh_statusWord_WC : (State.fresh .WC).statusWord = 0x00000010 := by decide

/-- Settles O11: the reset state is the fresh state of the configured revision, whichever it is. -/
theorem resetValues : Obligations.ResetValues := by
  refine ⟨fun _ => rfl, rfl, rfl, rfl, rfl, rfl, rfl, rfl, fun hrev => ?_, fun hrev => ?_,
    resetBlock_rev⟩
  · rw [State.reset, show Config.rev = .NC from hrev, fresh_statusWord_NC]
  · rw [State.reset, show Config.rev = .WC from hrev, fresh_statusWord_WC]

end Sys2Proof.Machine
end

section
/-! SUPPORT. Which commands write which state (R35): the stream only FEED, a mailbox only a decode of its
type or its TAKE (R24 to R26). -/

namespace Sys2Proof.Machine

theorem feedByte_sync (s : State) (b : Byte) :
    (s.feedByte b).sync =
      if s.decodedBy b = none then (s.receiveByte b).sync else .InSync := by
  cases hd : s.decodedBy b with
  | none => simp [feedByte_of_none hd]
  | some p => simp [feedByte_of_some hd]

theorem feedByte_cnt_of_none {s : State} {b : Byte} (hd : s.decodedBy b = none) :
    (s.feedByte b).cnt.toNat = min (maxLen s.rev) (s.cnt.toNat + 1) := by
  have hmax := maxLen_lt_256 s.rev
  rw [feedByte_of_none hd, respond_cnt, receiveByte_cnt, BitVec.toNat_ofNat]
  exact Nat.mod_eq_of_lt (by omega)

/-- A FEED changes the mailbox of the type it decodes, and no other (R81, R85). -/
theorem feedByte_slot_of_ne {s : State} {b : Byte} {v : PacketType}
    (h : (s.feedByte b).slot v ≠ s.slot v) :
    s.decodedBy b = some v ∧ ∃ r, (s.feedByte b).slot v = some r := by
  cases hd : s.decodedBy b with
  | none => simp [feedByte_of_none hd] at h
  | some p =>
    rw [feedByte_of_some hd, slot_respond, slot_decodeType] at h ⊢
    by_cases hv : v = p
    · exact ⟨congrArg some hv.symm, _, if_pos hv⟩
    · simp [hv] at h

/-- Settles O45: TAKE and the answers leave `sync`; a FEED sets it by its decode, or else by its count. -/
theorem syncChangesOnlyInFeed : Obligations.SyncChangesOnlyInFeed := by
  intro i s t hi h
  rcases command_cases hi h with ⟨b, rfl, rfl⟩ | ⟨p, rfl, rfl⟩ | ⟨v, rfl⟩
  · rw [feedByte_sync]
    cases hd : s.decodedBy b with
    | some p => exact ⟨fun _ hout => by simp at hout, fun _ _ => ⟨b, p, rfl, hd⟩⟩
    | none =>
      simp only [if_true, receiveByte_sync]
      refine ⟨fun hin hout => ?_, fun hout hin => ?_⟩
      · have hsat : maxLen s.rev < s.cnt.toNat + 1 := by
          by_contra hroom
          simp [hroom, hin] at hout
        exact ⟨b, rfl, hsat, by rw [feedByte_cnt_of_none hd]; omega, hd⟩
      · simp [hout] at hin
  · simp +contextual
  · simp +contextual

/-- Settles O46: a FEED writes the mailbox it decodes into, a TAKE its own, an answer none. -/
theorem mailboxChangesOnlyByDecodeOrTake : Obligations.MailboxChangesOnlyByDecodeOrTake := by
  intro i s t v hi h hne
  rcases command_cases hi h with ⟨b, rfl, rfl⟩ | ⟨p, rfl, rfl⟩ | ⟨_, rfl⟩
  · obtain ⟨hd, r, hr⟩ := feedByte_slot_of_ne hne
    exact .inl ⟨b, r, rfl, hd, hr⟩
  · rw [slot_take] at hne ⊢
    by_cases hv : v = p
    · exact .inr ⟨by rw [hv], if_pos hv⟩
    · simp [hv] at hne
  · simp at hne

/-- Settles O44: without FEED a command is a TAKE or an answer, and neither touches the stream. -/
theorem onlyFeedWritesTheStream : Obligations.OnlyFeedWritesTheStream := by
  intro i s t hi hfeed h
  rcases command_cases hi h with ⟨b, rfl, -⟩ | ⟨p, rfl, rfl⟩ | ⟨_, rfl⟩
  · exact absurd rfl (hfeed b)
  · refine ⟨by simp, by simp, by simp, by simp, by simp, by simp, by simp, by simp, fun v hv => ?_⟩
    rw [slot_take, if_neg fun hvp => hv (by rw [hvp])]
  · exact ⟨rfl, rfl, rfl, rfl, rfl, rfl, rfl, rfl, fun v _ => slot_respond s _ v⟩

end Sys2Proof.Machine
end

section
/-! SUPPORT. What the bytes of a record mean (R44, R60), and which window bytes a group of FEEDs leaves
(R39, R40). -/

namespace Sys2Proof.Machine

/-! ### The fields and the counter of a record -/

/-- The sign of a field is the top bit of its high byte (R12, R44). -/
theorem sext16_be16 (hi lo : Byte) :
    sext16 (be16 hi lo) =
      (if hi.toNat < 128 then (0 : Int) else -65536) + 256 * hi.toNat + lo.toNat := by
  have hlo := lo.isLt
  have hsign : 256 * hi.toNat + lo.toNat < 0x8000 ↔ hi.toNat < 128 := by omega
  simp only [sext16, be16_toNat, hsign]
  split <;> omega

theorem hasCounter_iff (rev : Rev) : hasCounter rev = true ↔ rev = .WC := by
  cases rev <;> decide

theorem counterAt_eq_ite (s : State) (p : PacketType) (base : Nat) :
    s.counterAt p base =
      if s.rev = .WC then some (s.windowByte (base + (1 + 2 * fieldCount p))) else none := by
  simp only [State.counterAt, hasCounter_iff, Nat.add_assoc]

/-- Settles O24: the fields are `fieldAt`, and the counter is the byte after `NF(t)` of them (R57). -/
theorem recordFieldsAreBigEndianSigned : Obligations.RecordFieldsAreBigEndianSigned := by
  intro s base
  refine ⟨s.fieldAt base, fun k => if s.rev = .WC then some (s.windowByte (base + k)) else none,
    fun k => sext16_be16 _ _, fun _ => rfl, ?_⟩
  simp only [State.decodeRecord, counterAt_eq_ite, fieldCount, and_self]

/-! ### The window bytes a group of FEEDs leaves -/

theorem windowByte_feedByte_of_ne {s : State} (h : Memory.wf s.window = true) (b : Byte) {a : Nat}
    (ha : a < Config.capacity) (hne : s.wp.toNat ≠ a) :
    (s.feedByte b).windowByte a = s.windowByte a := by
  have hwindow : (s.feedByte b).window = (s.receiveByte b).window := by simp
  rw [windowByte_congr hwindow, windowByte_receiveByte h b ha, if_neg hne.symm]

/-- A byte that no FEED of the group finds its pointer at keeps its value. -/
theorem windowByte_feedBytes_of_ne {s : State} (h : Memory.wf s.window = true) {bytes : List Byte}
    {a : Nat} (ha : a < Config.capacity)
    (hne : ∀ k, k < bytes.length → (s.feedBytes (bytes.take k)).wp.toNat ≠ a) :
    (s.feedBytes bytes).windowByte a = s.windowByte a := by
  induction bytes generalizing s with
  | nil => rfl
  | cons b bytes ih =>
    have hfirst : s.wp.toNat ≠ a := hne 0 (Nat.zero_lt_succ _)
    have hrest (k : Nat) (hk : k < bytes.length) :
        ((s.feedByte b).feedBytes (bytes.take k)).wp.toNat ≠ a :=
      hne (k + 1) (Nat.succ_lt_succ hk)
    rw [feedBytes_cons, ih (feedByte_wf h b) hrest, windowByte_feedByte_of_ne h b ha hfirst]

/-- Settles O32: a frame is its bytes fed one by one, and each FEED stores at its pointer only. -/
theorem frameStoresOnlyAtPointer : Obligations.FrameStoresOnlyAtPointer := by
  intro i bytes s hbytes hwf
  exact ⟨s.feedBytes bytes, exec_streamBytes hbytes s, feedBytes_rev s bytes, feedBytes_rst s bytes,
    feedBytes_awaitingReset s bytes, feedBytes_pending s bytes, feedBytes_responses s bytes,
    fun _ ha hne => windowByte_feedBytes_of_ne hwf ha hne⟩

end Sys2Proof.Machine
end

section
/-! SUPPORT. Decoding and encoding undo each other (R57, R63, R64): a unit decodes to an instruction
exactly when it is the encoding of that instruction. -/

namespace Sys2Proof

/-! ### The fields of a command word (R63) -/

theorem cmdWord_toNat (op : BitVec 4) (arg : Byte) :
    (cmdWord op arg).toNat = 256 * op.toNat + arg.toNat :=
  Machine.toNat_append_eq_add op arg

theorem opField_toNat (c : CmdWord) : (opField c).toNat = c.toNat / 256 := by
  simp only [opField, BitVec.extractLsb'_toNat, Nat.shiftRight_eq_div_pow]
  omega

theorem argField_toNat (c : CmdWord) : (argField c).toNat = c.toNat % 256 := by
  simp [argField]

theorem typeField_toNat (c : CmdWord) : (typeField c).toNat = c.toNat % 4 := by
  simp [typeField]

theorem typeHighBits_toNat (c : CmdWord) : (typeHighBits c).toNat = c.toNat / 4 % 64 := by
  simp [typeHighBits, Nat.shiftRight_eq_div_pow]

@[simp] theorem opField_cmdWord (op : BitVec 4) (arg : Byte) : opField (cmdWord op arg) = op := by
  apply BitVec.eq_of_toNat_eq
  rw [opField_toNat, cmdWord_toNat]
  omega

@[simp] theorem argField_cmdWord (op : BitVec 4) (arg : Byte) : argField (cmdWord op arg) = arg := by
  apply BitVec.eq_of_toNat_eq
  rw [argField_toNat, cmdWord_toNat]
  omega

/-- The two fields are the whole word. -/
theorem word_eq_of_fields {c : CmdWord} {op : BitVec 4} {arg : Byte}
    (hop : (opField c).toNat = op.toNat) (harg : argField c = arg) :
    Encoded.word (cmdWord op arg) = .word c := by
  subst harg
  refine congrArg Encoded.word (BitVec.eq_of_toNat_eq ?_)
  rw [cmdWord_toNat, ← hop, opField_toNat, argField_toNat]
  omega

/-! ### Command words (R64) -/

theorem decodePlain_eq_ok_iff {c : CmdWord} {i j : Instr} :
    decodePlain c i = .ok j ↔ argField c = 0 ∧ i = j := by
  unfold decodePlain
  split <;> simp_all

/-- A type field in a legal word is the whole argument (R63). -/
theorem decodeTyped_eq_ok {c : CmdWord} {q s b i : Instr} (h : decodeTyped c q s b = .ok i) :
    (argField c = 0x00 ∧ q = i) ∨ (argField c = 0x01 ∧ s = i) ∨ (argField c = 0x02 ∧ b = i) := by
  have harg {a : Byte} (hhigh : typeHighBits c = 0) (hlow : (typeField c).toNat = a.toNat) :
      argField c = a := by
    have hhigh : c.toNat / 4 % 64 = 0 := by rw [← typeHighBits_toNat, hhigh]; rfl
    rw [typeField_toNat] at hlow
    apply BitVec.eq_of_toNat_eq
    rw [argField_toNat]
    omega
  unfold decodeTyped at h
  split at h
  · cases h
  next hhigh =>
    have hhigh : typeHighBits c = 0 := not_not.1 hhigh
    split at h
    next hty => exact .inl ⟨harg hhigh hty, Except.ok.inj h⟩
    next hty => exact .inr (.inl ⟨harg hhigh hty, Except.ok.inj h⟩)
    next hty => exact .inr (.inr ⟨harg hhigh hty, Except.ok.inj h⟩)
    · cases h

theorem encode_of_decodeWord {c : CmdWord} {i : Instr} (h : decodeWord c = .ok i) :
    encode i = .word c := by
  unfold decodeWord at h
  split at h
  next hop =>
    obtain ⟨harg, rfl⟩ := decodePlain_eq_ok_iff.1 h
    exact word_eq_of_fields hop harg
  next hop =>
    cases h
    exact word_eq_of_fields hop rfl
  next hop =>
    rcases decodeTyped_eq_ok h with ⟨harg, rfl⟩ | ⟨harg, rfl⟩ | ⟨harg, rfl⟩ <;>
      exact word_eq_of_fields hop harg
  next hop =>
    rcases decodeTyped_eq_ok h with ⟨harg, rfl⟩ | ⟨harg, rfl⟩ | ⟨harg, rfl⟩ <;>
      exact word_eq_of_fields hop harg
  next hop =>
    obtain ⟨harg, rfl⟩ := decodePlain_eq_ok_iff.1 h
    exact word_eq_of_fields hop harg
  · cases h

/-! ### Frames (R57) -/

theorem encode_of_decodeBurst {bytes : List Byte} {i : Instr} (h : decodeBurst bytes = .ok i) :
    encode i = .burst bytes := by
  unfold decodeBurst at h
  split at h
  case h_7 => cases h
  all_goals
    split at h
    next htag =>
      cases h
      simp [encode, frameBytes, QuaternionFields.bytes, SensorFields.bytes, BatteryFields.bytes, htag]
    next => cases h

/-! ### The two directions -/

/-- Settles O2: the decoder reads each field where the encoder puts it. -/
theorem decodeAfterEncode : Obligations.DecodeAfterEncode := by
  intro i
  cases i with
  | feed b => simp [encode, decode, decodeWord]
  | nop | takeQ | takeS | takeB | peekQ | peekS | peekB | status => rfl
  | frameQWC | frameQNC | frameSWC | frameSNC | frameBWC | frameBNC =>
    simp [encode, decode, frameBytes, QuaternionFields.bytes, SensorFields.bytes,
      BatteryFields.bytes, decodeBurst]

/-- Settles O3: the fields of a word, and the bytes of a frame, are put back where they were read. -/
theorem encodeAfterDecode : Obligations.EncodeAfterDecode := by
  intro x i h
  cases x with
  | word c => exact encode_of_decodeWord h
  | burst bytes => exact encode_of_decodeBurst h

theorem decode_eq_ok_iff {x : Encoded} {i : Instr} : decode x = .ok i ↔ encode i = x :=
  ⟨encodeAfterDecode x i, fun h => h ▸ decodeAfterEncode i⟩

/-- Settles O1: the words are the encodings of the instructions. -/
theorem specEncodingsDecode : Obligations.SpecEncodingsDecode :=
  ⟨decodeAfterEncode .nop, decodeAfterEncode (.feed 0x51), decodeAfterEncode .takeQ,
    decodeAfterEncode .takeS, decodeAfterEncode .takeB, decodeAfterEncode .peekQ,
    decodeAfterEncode .peekS, decodeAfterEncode .peekB, decodeAfterEncode .status,
    decodeAfterEncode (.frameBWC ⟨3700⟩ 7 0x3F), decodeAfterEncode (.frameBNC ⟨3700⟩ 0x38)⟩

end Sys2Proof
end

section
/-! SUPPORT. The legal and the illegal command words (R64, R65), and what the block does with an illegal
one (R106). -/

namespace Sys2Proof.Machine

/-! ### The legal words -/

/-- The command words other than FEED (R64). -/
def fixedWords : List Nat := [0x000, 0x200, 0x201, 0x202, 0x300, 0x301, 0x302, 0x400]

theorem encode_feed_argField {c : CmdWord} (h : c.toNat / 256 = 1) :
    encode (.feed (argField c)) = .word c :=
  word_eq_of_fields ((opField_toNat c).trans h) rfl

theorem mem_fixedWords_iff {n : Nat} :
    n ∈ fixedWords ↔ n = 0x000 ∨ n = 0x200 ∨ n = 0x201 ∨ n = 0x202 ∨ n = 0x300 ∨ n = 0x301 ∨
      n = 0x302 ∨ n = 0x400 := by
  simp [fixedWords]

/-- A legal word is a FEED word, or one of the eight others (R64). -/
theorem exists_encode_eq_word_iff (c : CmdWord) :
    (∃ i, encode i = .word c) ↔ c.toNat / 256 = 1 ∨ c.toNat ∈ fixedWords := by
  constructor
  · rintro ⟨i, hi⟩
    cases i with
    | feed b =>
      obtain rfl : cmdWord 0x1 b = c := Encoded.word.inj hi
      have hop : opField (cmdWord 0x1 b) = 0x1 := opField_cmdWord _ _
      exact .inl (by rw [← opField_toNat, hop]; rfl)
    | nop | takeQ | takeS | takeB | peekQ | peekS | peekB | status =>
      cases hi
      exact .inr (by decide)
    | frameQWC | frameQNC | frameSWC | frameSNC | frameBWC | frameBNC => cases hi
  · rintro (hfeed | hfixed)
    · exact ⟨_, encode_feed_argField hfeed⟩
    · have hword {n : CmdWord} (hn : c.toNat = n.toNat) : Encoded.word n = .word c :=
        congrArg Encoded.word (BitVec.eq_of_toNat_eq hn.symm)
      rcases mem_fixedWords_iff.1 hfixed with hn | hn | hn | hn | hn | hn | hn | hn
      · exact ⟨.nop, hword hn⟩
      · exact ⟨.takeQ, hword hn⟩
      · exact ⟨.takeS, hword hn⟩
      · exact ⟨.takeB, hword hn⟩
      · exact ⟨.peekQ, hword hn⟩
      · exact ⟨.peekS, hword hn⟩
      · exact ⟨.peekB, hword hn⟩
      · exact ⟨.status, hword hn⟩

theorem isOk_decode_word_iff (c : CmdWord) :
    (decode (.word c)).isOk = true ↔ c.toNat / 256 = 1 ∨ c.toNat ∈ fixedWords := by
  rw [← exists_encode_eq_word_iff]
  simp only [← decode_eq_ok_iff]
  cases decode (.word c) <;> simp [Except.isOk, Except.toBool]

theorem exists_decode_eq_error_iff (c : CmdWord) :
    (∃ r, decode (.word c) = .error r) ↔ ¬ (c.toNat / 256 = 1 ∨ c.toNat ∈ fixedWords) := by
  rw [← isOk_decode_word_iff]
  cases decode (.word c) <;> simp [Except.isOk, Except.toBool]

/-- The 256 FEED words and the eight others are all (R65). -/
theorem legal_words_count :
    ((List.range 4096).filter fun n => (decode (.word (BitVec.ofNat 12 n))).isOk).length = 264 := by
  have hnodup := (List.nodup_range (n := 4096)).filter fun n =>
    (decode (.word (BitVec.ofNat 12 n))).isOk
  have hset : ((List.range 4096).filter fun n =>
      (decode (.word (BitVec.ofNat 12 n))).isOk).toFinset =
        Finset.Ico 0x100 0x200 ∪ fixedWords.toFinset := by
    ext n
    simp only [List.mem_toFinset, List.mem_filter, List.mem_range, isOk_decode_word_iff,
      BitVec.toNat_ofNat, Finset.mem_union, Finset.mem_Ico, mem_fixedWords_iff]
    omega
  have hdisjoint : Disjoint (Finset.Ico 0x100 0x200) fixedWords.toFinset := by
    rw [Finset.disjoint_left]
    simp only [Finset.mem_Ico, List.mem_toFinset, mem_fixedWords_iff]
    omega
  calc _ = (Finset.Ico 0x100 0x200 ∪ fixedWords.toFinset).card := by
        rw [← List.toFinset_card_of_nodup hnodup, hset]
    _ = 256 + 8 := by rw [Finset.card_union_of_disjoint hdisjoint, Nat.card_Ico]; rfl

/-! ### The block's answer to an illegal word -/

theorem accept_of_decode_error {x : Encoded} {r : Reject} (h : decode x = .error r) (s : State) :
    accept x s = s.consumeUndecoded x := by
  simp only [accept, h]

/-- Where the model's step faults at an illegal word, the block answers it and goes on (R106, R107). -/
theorem blockStep_of_fault {s : State} {c : CmdWord} (h : step s = .fault (.illegalCommand c)) :
    blockStep s = State.respondIllegal { s with pending := s.pending.tail } c := by
  simp only [blockStep, h]

theorem step_illegal_word {s : State} {c : CmdWord} {es : List HostEvent} {r : Reject}
    (hpending : s.pending = .offer (.word c) :: es) (haccepts : s.acceptsCommands = true)
    (hdecode : decode (.word c) = .error r) : step s = .fault (.illegalCommand c) := by
  rw [step_offer hpending haccepts, accept_of_decode_error hdecode, State.consumeUndecoded]

/-- Settles O4: the words that encode no instruction are those of R65, and the block answers them. -/
theorem illegalWordsAreExactlyThose : Obligations.IllegalWordsAreExactlyThose := by
  refine ⟨fun c => ?_, legal_words_count, fun s c es r hpending hrst hawaiting hdecode => ?_⟩
  · have hlt := c.isLt
    rw [exists_decode_eq_error_iff, mem_fixedWords_iff]
    omega
  · have haccepts : s.acceptsCommands = true := (acceptsCommands_iff s).2 ⟨hrst, hawaiting⟩
    rw [blockStep_of_fault (step_illegal_word hpending haccepts hdecode), hpending]
    rfl

end Sys2Proof.Machine
end

section
/-! SUPPORT. The length and the checksum of a frame (R58, R61), the pseudo-instructions that send one
(R69), and a frame as the FEEDs of its bytes (R88). -/

namespace Sys2Proof.Machine

/-- Settles O5: `HASCTR(REV)` holds exactly for revision WC. -/
theorem frameLengths : Obligations.FrameLengths := by
  refine ⟨fun rev t => ?_, rfl, rfl, rfl, rfl, rfl, rfl, rfl, rfl⟩
  simp only [frameLen, hasCounter_iff]

/-! ### The checksum (R61) -/

theorem xorBytes_concat (bytes : List Byte) (k : Byte) :
    xorBytes (bytes ++ [k]) = xorBytes bytes ^^^ k := by
  simp [xorBytes_append, xorBytes]

/-- The last byte is the XOR of the earlier ones exactly when all XOR to zero (R61). -/
theorem getLastD_eq_xorBytes_dropLast_iff (bytes : List Byte) :
    bytes.getLastD 0 = xorBytes bytes.dropLast ↔ xorBytes bytes = 0 := by
  rcases List.eq_nil_or_concat bytes with rfl | ⟨init, k, rfl⟩
  · simp [xorBytes]
  · rw [List.concat_eq_append, List.getLastD_concat, List.dropLast_concat, xorBytes_concat, eq_comm]
    exact BitVec.xor_eq_zero_iff.symm

theorem wellFormed_iff_xorBytes_eq_zero {i : Instr} {bytes : List Byte} (h : encode i = .burst bytes) :
    i.wellFormed = true ↔ xorBytes bytes = 0 := by
  cases i with
  | nop | feed | takeQ | takeS | takeB | peekQ | peekS | peekB | status => cases h
  | frameQWC | frameQNC | frameSWC | frameSNC | frameBWC | frameBNC =>
    cases h
    exact beq_iff_eq

theorem length_of_frameRecord {i : Instr} {bytes : List Byte} {rev : Rev} {r : Record}
    (h : encode i = .burst bytes) (hr : i.frameRecord = some (rev, r)) :
    bytes.length = frameLen rev r.type := by
  cases i with
  | nop | feed | takeQ | takeS | takeB | peekQ | peekS | peekB | status => cases h
  | frameQWC | frameQNC | frameSWC | frameSNC | frameBWC | frameBNC =>
    cases h
    cases hr
    rfl

/-- Settles O6: a frame is well formed when it XORs to zero, and that is what its last byte is for. -/
theorem correctFrameReducesToZero : Obligations.CorrectFrameReducesToZero := by
  intro i bytes h
  have hwf := wellFormed_iff_xorBytes_eq_zero h
  exact ⟨hwf.trans (getLastD_eq_xorBytes_dropLast_iff bytes).symm, hwf,
    fun _ _ hr => length_of_frameRecord h hr⟩

/-! ### The pseudo-instructions (R69) -/

/-- The checksum byte the assembler computes closes the frame (R61). -/
theorem xorBytes_frameBytes_checksumByte (t : PacketType) (payload : List Byte) (ctr : Option Byte) :
    xorBytes (frameBytes t payload ctr (Assembler.checksumByte t payload ctr)) = 0 := by
  have hsplit (k : Byte) :
      xorBytes (frameBytes t payload ctr k) = xorBytes (tag t :: (payload ++ ctr.toList)) ^^^ k := by
    rw [← xorBytes_concat, List.cons_append, List.append_assoc, frameBytes]
  simp [Assembler.checksumByte, hsplit]

theorem wellFormed_of_checksumByte {i : Instr} {t : PacketType} {payload : List Byte}
    {ctr : Option Byte}
    (h : encode i = .burst (frameBytes t payload ctr (Assembler.checksumByte t payload ctr))) :
    i.wellFormed = true :=
  (wellFormed_iff_xorBytes_eq_zero h).2 (xorBytes_frameBytes_checksumByte t payload ctr)

section
variable {rev : Rev} {ctr : Option Byte} {i : Instr}

theorem sendQ_isSome_iff (f : QuaternionFields) :
    (Assembler.sendQ rev f ctr).isSome = true ↔ (ctr.isSome = true ↔ rev = .WC) := by
  cases rev <;> cases ctr <;> simp [Assembler.sendQ]

theorem sendS_isSome_iff (f : SensorFields) :
    (Assembler.sendS rev f ctr).isSome = true ↔ (ctr.isSome = true ↔ rev = .WC) := by
  cases rev <;> cases ctr <;> simp [Assembler.sendS]

theorem sendB_isSome_iff (f : BatteryFields) :
    (Assembler.sendB rev f ctr).isSome = true ↔ (ctr.isSome = true ↔ rev = .WC) := by
  cases rev <;> cases ctr <;> simp [Assembler.sendB]

theorem encode_of_sendQ {f : QuaternionFields} (h : Assembler.sendQ rev f ctr = some i) :
    encode i = .burst (frameBytes .Q f.bytes ctr (Assembler.checksumByte .Q f.bytes ctr)) ∧
      i.frameRecord = some (rev, .quaternion ⟨f, ctr⟩) := by
  match rev, ctr, h with
  | .WC, some _, rfl => exact ⟨rfl, rfl⟩
  | .NC, none, rfl => exact ⟨rfl, rfl⟩

theorem encode_of_sendS {f : SensorFields} (h : Assembler.sendS rev f ctr = some i) :
    encode i = .burst (frameBytes .S f.bytes ctr (Assembler.checksumByte .S f.bytes ctr)) ∧
      i.frameRecord = some (rev, .sensor ⟨f, ctr⟩) := by
  match rev, ctr, h with
  | .WC, some _, rfl => exact ⟨rfl, rfl⟩
  | .NC, none, rfl => exact ⟨rfl, rfl⟩

theorem encode_of_sendB {f : BatteryFields} (h : Assembler.sendB rev f ctr = some i) :
    encode i = .burst (frameBytes .B f.bytes ctr (Assembler.checksumByte .B f.bytes ctr)) ∧
      i.frameRecord = some (rev, .battery ⟨f, ctr⟩) := by
  match rev, ctr, h with
  | .WC, some _, rfl => exact ⟨rfl, rfl⟩
  | .NC, none, rfl => exact ⟨rfl, rfl⟩

end

theorem feedWord_eq_add (b : Byte) : Assembler.feedWord b = (0x100 : CmdWord) + b.setWidth 12 := by
  have hb := b.isLt
  apply BitVec.eq_of_toNat_eq
  rw [Assembler.feedWord, cmdWord_toNat, BitVec.toNat_add, BitVec.toNat_setWidth]
  have hop : (0x1 : BitVec 4).toNat = 1 := rfl
  have hbase : (0x100 : CmdWord).toNat = 256 := rfl
  omega

/-- Settles O7: a pseudo-instruction with its counter in place is a frame closed by its checksum byte. -/
theorem sendIsFeedsOfCorrectFrame : Obligations.SendIsFeedsOfCorrectFrame := by
  refine ⟨fun _ f _ => sendQ_isSome_iff f, fun _ f _ => sendS_isSome_iff f,
    fun _ f _ => sendB_isSome_iff f, fun _ _ _ _ h => ?_, fun _ _ _ _ h => ?_,
    fun _ _ _ _ h => ?_, fun i bytes h => ?_⟩
  · obtain ⟨hencode, hrecord⟩ := encode_of_sendQ h
    exact ⟨wellFormed_of_checksumByte hencode, hrecord⟩
  · obtain ⟨hencode, hrecord⟩ := encode_of_sendS h
    exact ⟨wellFormed_of_checksumByte hencode, hrecord⟩
  · obtain ⟨hencode, hrecord⟩ := encode_of_sendB h
    exact ⟨wellFormed_of_checksumByte hencode, hrecord⟩
  · simp only [Assembler.words, h, funext feedWord_eq_add]

/-! ### A frame as FEEDs (R88) -/

theorem execAll_map_feed (s : State) (bytes : List Byte) :
    execAll (bytes.map .feed) s = .next (s.feedBytes bytes) := by
  induction bytes generalizing s with
  | nil => rfl
  | cons b bytes ih => exact ih (s.feedByte b)

/-- Settles O30: both are the bytes fed one after another. -/
theorem frameIsItsFeeds : Obligations.FrameIsItsFeeds := by
  intro i bytes s h
  exact ⟨s.feedBytes bytes, exec_streamBytes h s, execAll_map_feed s bytes⟩

end Sys2Proof.Machine
end

section
/-! SUPPORT. The response of each command (R66). -/

namespace Sys2Proof.Machine

@[simp] theorem take_responses (s : State) (t : PacketType) :
    (s.take t).responses = s.responses ++ [takeResponse (s.slot t)] := by
  simp [State.take]

theorem ready_eq_decide (s : State) (t : PacketType) : s.ready t = decide (s.slot t ≠ none) := by
  rw [Bool.eq_iff_iff, ready_iff, decide_eq_true_iff]

theorem peek_responses (s : State) (t : PacketType) :
    (s.peek t).responses = s.responses ++ [.flag (decide (s.slot t ≠ none))] := by
  rw [← ready_eq_decide]
  rfl

/-- Settles O43: a FEED acknowledges its byte, and every other command only answers. -/
theorem oneResponsePerCommand : Obligations.OneResponsePerCommand := by
  intro i s t hi h
  cases i with
  | feed b => cases h; exact feedByte_responses s b
  | takeQ => cases h; exact take_responses s .Q
  | takeS => cases h; exact take_responses s .S
  | takeB => cases h; exact take_responses s .B
  | peekQ => cases h; exact peek_responses s .Q
  | peekS => cases h; exact peek_responses s .S
  | peekB => cases h; exact peek_responses s .B
  | nop | status => cases h; rfl
  | frameQWC | frameQNC | frameSWC | frameSNC | frameBWC | frameBNC => cases hi

end Sys2Proof.Machine
end

section
/-! SUPPORT. Steps 1 and 2 of FEED as numbers (R72, R73), which type the match procedure selects (R74 to
R78), and what a FEED leaves in either case (R79 to R85, R90, R91). -/

namespace Sys2Proof.Machine

/-! ### Steps 1 and 2 (R72, R73) -/

theorem receiveByte_wp_toNat (s : State) (b : Byte) :
    (s.receiveByte b).wp.toNat = (s.wp.toNat + 1) % 256 := by
  rw [receiveByte_wp, BitVec.toNat_ofNat]
  exact Nat.mod_mod _ 256

theorem receiveByte_cnt_toNat (s : State) (b : Byte) :
    (s.receiveByte b).cnt.toNat =
      if maxLen s.rev < s.cnt.toNat + 1 then maxLen s.rev else s.cnt.toNat + 1 := by
  have hmax := maxLen_lt_256 s.rev
  rw [receiveByte_cnt, BitVec.toNat_ofNat]
  split <;> omega

/-- The whole FEED writes the byte that its step 1 writes: no later step writes the window (R82). -/
theorem windowByte_feedByte {s : State} (h : Memory.wf s.window = true) (b : Byte) {a : Nat}
    (ha : a < Config.capacity) :
    (s.feedByte b).windowByte a = if a = s.wp.toNat then b else s.windowByte a := by
  have hwindow : (s.feedByte b).window = (s.receiveByte b).window := by simp
  rw [windowByte_congr hwindow, windowByte_receiveByte h b ha]

/-- Settles O19: the append stores at `wp` alone, and only a decode moves the pointer again. -/
theorem feedAppendsAtPointer : Obligations.FeedAppendsAtPointer := by
  intro s b hwf
  refine ⟨fun a ha => windowByte_receiveByte hwf b ha, receiveByte_wp_toNat s b, s.feedByte b, rfl,
    fun a ha => windowByte_feedByte hwf b ha, fun hnone => ?_⟩
  rw [feedByte_of_none hnone, respond_wp, receiveByte_wp_toNat]

theorem maxLen_eq_match (rev : Rev) : maxLen rev = match rev with | .WC => 21 | .NC => 20 := by
  cases rev <;> rfl

/-- Settles O20: the number given is `MAXLEN`, and a FEED without a decode keeps the count of step 2. -/
theorem feedCountsAndClamps : Obligations.FeedCountsAndClamps := by
  intro s b m hm
  obtain rfl : m = maxLen s.rev := hm.trans (maxLen_eq_match s.rev).symm
  refine ⟨receiveByte_cnt_toNat s b, receiveByte_sync s b, fun hnone => ⟨s.feedByte b, rfl, ?_, ?_⟩⟩
  · rw [feedByte_of_none hnone, respond_cnt, receiveByte_cnt_toNat]
  · rw [feedByte_of_none hnone, respond_sync, receiveByte_sync]

/-! ### The type the match procedure selects (R74, R76) -/

/-- The types are tried in the order Q, S, B (R15, R74). -/
theorem firstPassing_eq_ite (s : State) :
    s.firstPassing =
      if s.passes .Q then some .Q else if s.passes .S then some .S
      else if s.passes .B then some .B else none := by
  simp only [State.firstPassing, priorityOrder, List.find?_cons, List.find?_nil]
  cases s.passes .Q <;> cases s.passes .S <;> cases s.passes .B <;> rfl

theorem firstPassing_eq_some_iff (s : State) (t : PacketType) :
    s.firstPassing = some t ↔ s.passes t = true ∧ ∀ u ∈ earlierTypes t, ¬ s.passes u = true := by
  rw [firstPassing_eq_ite]
  split_ifs with hQ hS hB
  · cases t <;> simp [earlierTypes, hQ]
  · cases t <;> simp [earlierTypes, hQ, hS]
  · cases t <;> simp [earlierTypes, hQ, hS, hB]
  · cases t <;> simp [hQ, hS, hB]

theorem firstPassing_eq_none_iff (s : State) :
    s.firstPassing = none ↔ ∀ t, ¬ s.passes t = true := by
  refine List.find?_eq_none.trans ⟨fun h t => h t ?_, fun h t _ => h t⟩
  cases t <;> decide

theorem tagPosition_eq_ite (s : State) (t : PacketType) :
    s.tagPosition t = if s.sync = .InSync then 0 else s.wp.toNat - frameLen s.rev t := by
  cases hs : s.sync with
  | InSync => rw [tagPosition_inSync hs, if_pos rfl]
  | OutOfSync => rw [tagPosition_outOfSync hs, if_neg (by decide)]

/-- Settles O21: the three tests written out are `passes`, and the first type to pass is the one found. -/
theorem feedDecodesFirstTypeThatPasses : Obligations.FeedDecodesFirstTypeThatPasses := by
  rintro s b m rfl pass hpass
  have hpasses (t : PacketType) : pass t ↔ (s.receiveByte b).passes t = true := by
    rw [hpass, passes_iff, tagPosition_eq_ite, xorRange_eq_xorBytes, receiveByte_rev]
  simp only [hpasses]
  exact ⟨firstPassing_eq_some_iff _, firstPassing_eq_none_iff _⟩

/-- The length gate is closed below the frame length (R76). -/
theorem not_passes_of_wp_lt {s : State} {t : PacketType} (h : s.wp.toNat < frameLen s.rev t) :
    ¬ s.passes t = true :=
  fun hpass => absurd ((passes_iff s t).1 hpass).1 (Nat.not_le.2 h)

/-! ### What a FEED leaves (R79 to R85) -/

theorem attempt_of_not_passes {m : State} {t : PacketType} (h : m.passes t = false) :
    m.attempt t = m := by
  simp [State.attempt, h]

/-- Settles O22: without a decode step 3 is the identity. -/
theorem feedRejectionChangesNothing : Obligations.FeedRejectionChangesNothing := by
  refine ⟨fun s b hnone => ?_, fun s b hnone => ?_, fun m t => attempt_of_not_passes⟩
  · exact congrArg Host.Outcome.next (feedByte_of_none hnone)
  · refine ⟨s.feedByte b, rfl, fun v => ?_, feedByte_rev s b, feedByte_rst s b,
      feedByte_awaitingReset s b, feedByte_pending s b, feedByte_responses s b⟩
    rw [feedByte_of_none hnone, slot_respond, slot_receiveByte]

/-- The mailboxes after a FEED that decodes type `t` (R79, R81). -/
theorem slot_feedByte_of_some {s : State} {b : Byte} {t : PacketType} (h : s.decodedBy b = some t)
    (v : PacketType) :
    (s.feedByte b).slot v =
      if v = t then some ((s.receiveByte b).decodeRecord t
        ((s.receiveByte b).wp.toNat - frameLen s.rev t))
      else s.slot v := by
  rw [feedByte_of_some h, slot_respond, slot_decodeType, State.candidateStart, receiveByte_rev,
    slot_receiveByte]

/-- Settles O23: the record goes to its mailbox and the origin moves to the next byte. -/
theorem feedDecodePublishesRecord : Obligations.FeedDecodePublishesRecord := by
  intro s b t hsome
  refine ⟨s.feedByte b, rfl, ?_, fun v hv => ?_, ?_, ?_, ?_, ?_, feedByte_rev s b, feedByte_rst s b,
    feedByte_awaitingReset s b, feedByte_pending s b, feedByte_responses s b⟩
  · rw [slot_feedByte_of_some hsome, if_pos rfl]
  · rw [slot_feedByte_of_some hsome, if_neg hv]
  all_goals simp [feedByte_of_some hsome]

/-- A FEED that does not decode type `t` leaves its mailbox (R81, R85). -/
theorem slot_feedByte_of_not_decoded {s : State} {b : Byte} {t : PacketType}
    (h : s.decodedBy b ≠ some t) : (s.feedByte b).slot t = s.slot t := by
  by_contra hne
  exact h (feedByte_slot_of_ne hne).1

theorem foldl_attempt_decodeType (m : State) (t : PacketType) (ts : List PacketType) :
    ts.foldl State.attempt (m.decodeType t) = m.decodeType t := by
  induction ts with
  | nil => rfl
  | cons u ts ih => rw [List.foldl_cons, attempt_decodeType, ih]

/-- Settles O25: only the mailbox of the decoded type can change, and after a decode the length gate is
closed to every type. -/
theorem feedDecodesAtMostOnce : Obligations.FeedDecodesAtMostOnce := by
  refine ⟨fun s b => ?_, fun m t ts => ⟨passes_lock _, foldl_attempt_decodeType m t ts⟩⟩
  refine ⟨(s.decodedBy b).getD .Q, s.feedByte b, rfl, fun v hv => ?_⟩
  refine slot_feedByte_of_not_decoded fun hsome => hv ?_
  rw [hsome, Option.getD_some]

/-- While the new pointer is below its frame length a type is not decoded (R76). -/
theorem decodedBy_ne_some_of_wp_lt {s : State} {b : Byte} {t : PacketType}
    (h : (s.wp.toNat + 1) % 256 < frameLen s.rev t) : s.decodedBy b ≠ some t := by
  intro hsome
  rw [← receiveByte_wp_toNat s b, ← receiveByte_rev s b] at h
  exact not_passes_of_wp_lt h (firstPassing_passes hsome)

/-- Settles O26: the wrap leaves `wp = 0`, below every frame length. -/
theorem wrapSuppressesDecode : Obligations.WrapSuppressesDecode := by
  refine ⟨fun s b hwp => ?_, fun s b t hlt => ?_⟩
  · have hnone (t : PacketType) : s.decodedBy b ≠ some t := by
      have hlen := four_le_frameLen s.rev t
      exact decodedBy_ne_some_of_wp_lt (by omega)
    refine ⟨s.feedByte b, rfl, ?_, fun v => slot_feedByte_of_not_decoded (hnone v)⟩
    rw [feedByte_of_none (Option.eq_none_iff_forall_ne_some.2 hnone), respond_wp, receiveByte_wp, hwp]
    rfl
  · have hne := decodedBy_ne_some_of_wp_lt (b := b) hlt
    exact ⟨hne, s.feedByte b, rfl, slot_feedByte_of_not_decoded hne⟩

/-- When an attempt succeeds OutOfSync: tag and checksum are of the same window (R77, R78). -/
theorem passes_iff_of_outOfSync {s : State} (h : s.sync = .OutOfSync) (t : PacketType) :
    s.passes t = true ↔
      frameLen s.rev t ≤ s.wp.toNat ∧
        s.windowByte (s.wp.toNat - frameLen s.rev t) = tag t ∧
        s.xorRange (s.wp.toNat - frameLen s.rev t) (frameLen s.rev t) = 0 := by
  rw [passes_iff, tagPosition_outOfSync h]

/-- Settles O27: the count exceeds `MAXLEN` before the match, so the tag is tested in the trailing window. -/
theorem saturatingFeedCanRegainSync : Obligations.SaturatingFeedCanRegainSync := by
  rintro s b t m rfl - hcnt hgate htag hxor hearlier
  have hout : (s.receiveByte b).sync = .OutOfSync := by
    rw [receiveByte_sync, if_pos (by omega)]
  have hpass : (s.receiveByte b).passes t = true := by
    rw [passes_iff_of_outOfSync hout, receiveByte_rev]
    exact ⟨hgate, htag, hxor⟩
  have hfirst : s.decodedBy b = some t := by
    refine (firstPassing_eq_some_iff _ t).2 ⟨hpass, fun u hu hu' => ?_⟩
    rw [passes_iff_of_outOfSync hout, receiveByte_rev] at hu'
    obtain ⟨hugate, hutag, -⟩ := hu'
    exact hearlier u hu hugate hutag
  refine ⟨hout, s.feedByte b, rfl, ?_, ?_⟩
  · simp [feedByte_of_some hfirst]
  · rw [slot_feedByte_of_some hfirst, if_pos rfl]

/-! ### The checksum detects one wrong byte (R61, R78) -/

theorem xorRange_ne_of_one_byte {m n : State} {base len j : Nat} (hlow : base ≤ j)
    (hhigh : j < base + len) (hne : m.windowByte j ≠ n.windowByte j)
    (heq : ∀ k, k ≠ j → k < base + len → m.windowByte k = n.windowByte k) :
    m.xorRange base len ≠ n.xorRange base len := by
  induction len with
  | zero => omega
  | succ len ih =>
    rw [State.xorRange, State.xorRange]
    by_cases hj : j = base + len
    · have hprefix : m.xorRange base len = n.xorRange base len :=
        xorRange_congr fun k hk => heq _ (by omega) (by omega)
      rw [hprefix, ← hj]
      exact fun h => hne ((BitVec.xor_right_inj _).1 h)
    · rw [heq (base + len) (Ne.symm hj) (by omega)]
      exact fun h => ih (by omega) (fun k hk hlt => heq k hk (by omega)) ((BitVec.xor_left_inj _).1 h)

/-- Settles O29: the two checksums differ, so not both are zero. -/
theorem oneWrongByteFailsChecksum : Obligations.OneWrongByteFailsChecksum := by
  intro m n t j hrev hwp hlow hhigh hne heq hm
  rw [Bool.eq_false_iff]
  intro hn
  have hlt := m.wp.isLt
  obtain ⟨hgate, -, hmxor⟩ := (passes_iff m t).1 hm
  obtain ⟨-, -, hnxor⟩ := (passes_iff n t).1 hn
  rw [← hrev, ← hwp] at hnxor
  have hdiffer : m.xorRange (m.wp.toNat - frameLen m.rev t) (frameLen m.rev t) ≠
      n.xorRange (m.wp.toNat - frameLen m.rev t) (frameLen m.rev t) :=
    xorRange_ne_of_one_byte hlow (by omega) hne fun k hk hkw => heq k hk (by omega)
  exact hdiffer (hmxor.trans hnxor.symm)

end Sys2Proof.Machine
end

section
/-! SUPPORT. A group of bytes offered as one unit, and the same bytes offered as FEED words (R14, R88). -/

namespace Sys2Proof.Machine

/-- A group of bytes is fed byte by byte, a frame or not (R88, R108). -/
theorem accept_burst (bytes : List Byte) (s : State) :
    accept (.burst bytes) s = .next (s.feedBytes bytes) := by
  cases hd : decode (.burst bytes) with
  | ok i => rw [accept_of_decode_ok hd, exec_streamBytes (decode_eq_ok_iff.1 hd)]
  | error r => rw [accept_of_decode_error hd, State.consumeUndecoded]

theorem accept_feedWord (b : Byte) (s : State) :
    accept (encode (.feed b)) s = .next (s.feedByte b) :=
  accept_of_decode_ok (decodeAfterEncode _) s

/-- The state with other events still to come. -/
def State.withPending (s : State) (es : List HostEvent) : State := { s with pending := es }

/-! ### FEED neither reads nor writes the events still to come -/

theorem receiveByte_withPending (s : State) (es : List HostEvent) (b : Byte) :
    (s.withPending es).receiveByte b = (s.receiveByte b).withPending es := by
  by_cases hexceeds : maxLen s.rev < s.cnt.toNat + 1 <;>
    simp [State.receiveByte, State.countByte, State.appendByte, State.withPending, hexceeds]

theorem firstPassing_withPending (s : State) (es : List HostEvent) :
    (s.withPending es).firstPassing = s.firstPassing := by
  have hxor (base len : Nat) : (s.withPending es).xorRange base len = s.xorRange base len :=
    xorRange_congr fun _ _ => rfl
  have hpasses (t : PacketType) : (s.withPending es).passes t = s.passes t := by
    rw [Bool.eq_iff_iff, passes_iff, passes_iff, hxor]
    rfl
  rw [State.firstPassing, State.firstPassing, funext hpasses]

theorem decodeType_withPending (s : State) (es : List HostEvent) (t : PacketType) :
    (s.withPending es).decodeType t = (s.decodeType t).withPending es := by
  cases t <;> rfl

theorem feedByte_withPending (s : State) (es : List HostEvent) (b : Byte) :
    (s.withPending es).feedByte b = (s.feedByte b).withPending es := by
  have hfirst : ((s.withPending es).receiveByte b).firstPassing = (s.receiveByte b).firstPassing := by
    rw [receiveByte_withPending, firstPassing_withPending]
  cases hf : (s.receiveByte b).firstPassing with
  | none =>
    rw [feedByte_of_none hf, feedByte_of_none (hfirst.trans hf), receiveByte_withPending]
    rfl
  | some t =>
    rw [feedByte_of_some hf, feedByte_of_some (hfirst.trans hf), receiveByte_withPending,
      decodeType_withPending]
    rfl

/-! ### The run of FEED words -/

/-- The bytes offered as FEED words, one event each (R14, R64). -/
def feedOffers (bytes : List Byte) : List HostEvent :=
  bytes.map fun b => .offer (encode (.feed b))

/-- One step per FEED word is one FEED per byte (R14). -/
theorem run_feedOffers {s : State} (h : s.acceptsCommands = true) (bytes : List Byte)
    (es : List HostEvent) :
    run bytes.length (s.withPending (feedOffers bytes ++ es)) =
      .next ((s.withPending es).feedBytes bytes) := by
  induction bytes generalizing s with
  | nil => rfl
  | cons b bytes ih =>
    have hstep : step (s.withPending (feedOffers (b :: bytes) ++ es)) =
        .next ((s.feedByte b).withPending (feedOffers bytes ++ es)) := by
      have hoffer : step (s.withPending (feedOffers (b :: bytes) ++ es)) =
          accept (encode (.feed b)) (s.withPending (feedOffers bytes ++ es)) := step_offer rfl h
      rw [hoffer, accept_feedWord, feedByte_withPending]
    have haccepts : (s.feedByte b).acceptsCommands = true := by
      simpa [acceptsCommands_iff] using h
    calc run (bytes.length + 1) (s.withPending (feedOffers (b :: bytes) ++ es))
        = run bytes.length ((s.feedByte b).withPending (feedOffers bytes ++ es)) := by
          rw [run, hstep]
      _ = .next (((s.feedByte b).withPending es).feedBytes bytes) := ih haccepts
      _ = .next ((s.withPending es).feedBytes (b :: bytes)) := by
          rw [feedBytes_cons, feedByte_withPending]

/-- Settles O31: both feed the bytes one after another, with the same events left. -/
theorem burstStepIsRunOfFeedSteps : Obligations.BurstStepIsRunOfFeedSteps := by
  intro s bytes es hpending hrst hawaiting
  have haccepts : s.acceptsCommands = true := (acceptsCommands_iff s).2 ⟨hrst, hawaiting⟩
  refine ⟨(s.withPending es).feedBytes bytes, ?_, run_feedOffers haccepts bytes es⟩
  rw [step_offer hpending haccepts, accept_burst, State.withPending]

end Sys2Proof.Machine
end

section
/-! SUPPORT. A correct frame from the origin while InSync, the fast path of R74 to R81: until its last byte
no type passes, and at its last byte the type of its tag does. -/

namespace Sys2Proof.Machine

/-! ### A frame and its record (R56 to R60) -/

theorem tag_injective : Function.Injective tag := by
  intro p q
  cases p <;> cases q <;> decide

section
variable {i : Instr} {rev : Rev} {r : Record}

theorem exists_encode_of_frameRecord (hr : i.frameRecord = some (rev, r)) :
    ∃ bytes, encode i = .burst bytes := by
  cases i with
  | nop | feed | takeQ | takeS | takeB | peekQ | peekS | peekB | status => cases hr
  | frameQWC | frameQNC | frameSWC | frameSNC | frameBWC | frameBNC => exact ⟨_, rfl⟩

theorem tag_of_frameRecord {bytes : List Byte} (h : encode i = .burst bytes)
    (hr : i.frameRecord = some (rev, r)) : bytes[0]? = some (tag r.type) := by
  cases i with
  | nop | feed | takeQ | takeS | takeB | peekQ | peekS | peekB | status => cases h
  | frameQWC | frameQNC | frameSWC | frameSNC | frameBWC | frameBNC =>
    cases h
    cases hr
    rfl

/-- A window that holds a frame from the origin on holds its record there (R59, R60). -/
theorem decodeRecord_of_frameRecord {bytes : List Byte} {m : State} (h : encode i = .burst bytes)
    (hr : i.frameRecord = some (m.rev, r))
    (hbytes : ∀ a, a < bytes.length → m.windowByte a = bytes.getD a 0) :
    m.decodeRecord r.type 0 = r := by
  cases i with
  | nop | feed | takeQ | takeS | takeB | peekQ | peekS | peekB | status => cases h
  | frameQWC | frameQNC | frameSWC | frameSNC | frameBWC | frameBNC =>
    cases h
    obtain ⟨hrev, rfl⟩ := Prod.mk.inj (Option.some.inj hr)
    simp [State.decodeRecord, State.fieldAt, State.counterAt, Record.type, hasCounter, fieldCount,
      ← hrev, hbytes, frameBytes, QuaternionFields.bytes, SensorFields.bytes, BatteryFields.bytes]

end

/-! ### Bytes received from the origin while InSync -/

/-- `m` is the block `s` with `bytes` received from the origin on, none of which completed a frame. -/
structure State.HasReceived (s : State) (bytes : List Byte) (m : State) : Prop where
  wf : Memory.wf m.window = true
  sync : m.sync = .InSync
  wp : m.wp.toNat = bytes.length
  cnt : m.cnt.toNat = bytes.length
  rev : m.rev = s.rev
  slot : ∀ v, m.slot v = s.slot v
  windowByte : ∀ a, a < 256 → m.windowByte a = (bytes[a]?).getD (s.windowByte a)

section
variable {s m : State} {bytes : List Byte}

theorem State.HasReceived.respond (h : s.HasReceived bytes m) (v : Response) :
    s.HasReceived bytes (m.respond v) where
  wf := h.wf
  sync := h.sync
  wp := h.wp
  cnt := h.cnt
  rev := h.rev
  slot u := (slot_respond m v u).trans (h.slot u)
  windowByte := h.windowByte

/-- Steps 1 and 2 of FEED below `MAXLEN` (R72, R73). -/
theorem State.HasReceived.receiveByte (h : s.HasReceived bytes m) (hlen : bytes.length < maxLen s.rev)
    (b : Byte) : s.HasReceived (bytes ++ [b]) (m.receiveByte b) := by
  have hmax := maxLen_lt_256 s.rev
  have hroom : ¬ maxLen m.rev < m.cnt.toNat + 1 := by
    rw [h.rev, h.cnt]
    omega
  refine ⟨receiveByte_wf h.wf b, ?_, ?_, ?_, (receiveByte_rev m b).trans h.rev,
    fun v => (slot_receiveByte m b v).trans (h.slot v), fun a ha => ?_⟩
  · rw [receiveByte_sync, if_neg hroom, h.sync]
  · rw [receiveByte_wp_toNat, h.wp, List.length_append, List.length_singleton]
    omega
  · rw [receiveByte_cnt_toNat, if_neg hroom, h.cnt, List.length_append, List.length_singleton]
  · rw [windowByte_receiveByte h.wf b ha, h.windowByte a ha, h.wp, List.getElem?_append]
    rcases Nat.lt_trichotomy a bytes.length with hlt | rfl | hgt
    · simp [hlt, hlt.ne]
    · simp
    · rw [if_neg hgt.ne', if_neg hgt.not_gt, List.getElem?_eq_none hgt.le,
        List.getElem?_eq_none (by simp; omega)]

variable {p : PacketType}

/-- InSync only the type whose tag stands at the origin can pass, and not before its last byte (R76, R77). -/
theorem State.HasReceived.eq_and_le_of_passes (h : s.HasReceived bytes m)
    (htag : bytes[0]? = some (tag p)) {q : PacketType} (hpass : m.passes q = true) :
    q = p ∧ frameLen s.rev q ≤ bytes.length := by
  obtain ⟨hgate, hq, -⟩ := (passes_iff m q).1 hpass
  rw [tagPosition_inSync h.sync, h.windowByte 0 (by decide), htag, Option.getD_some] at hq
  rw [h.rev, h.wp] at hgate
  exact ⟨(tag_injective hq).symm, hgate⟩

/-- A FEED before the last byte of the frame decodes nothing. -/
theorem State.HasReceived.feedByte (h : s.HasReceived bytes m) {b : Byte}
    (htag : (bytes ++ [b])[0]? = some (tag p)) (hlen : (bytes ++ [b]).length < frameLen s.rev p) :
    s.HasReceived (bytes ++ [b]) (m.feedByte b) := by
  have hmax := frameLen_le_maxLen s.rev p
  have hshort : bytes.length < maxLen s.rev := by
    rw [List.length_append, List.length_singleton] at hlen
    omega
  have hreceived := h.receiveByte hshort b
  have hnone : (m.receiveByte b).firstPassing = none := by
    refine (firstPassing_eq_none_iff _).2 fun q hpass => ?_
    obtain ⟨rfl, hle⟩ := hreceived.eq_and_le_of_passes htag hpass
    omega
  exact feedByte_of_none hnone ▸ hreceived.respond .ack

theorem State.HasReceived.feedBytes (h : s.HasReceived bytes m) {more : List Byte}
    (htag : (bytes ++ more)[0]? = some (tag p)) (hlen : (bytes ++ more).length < frameLen s.rev p) :
    s.HasReceived (bytes ++ more) (m.feedBytes more) := by
  induction more generalizing bytes m with
  | nil => simpa using h
  | cons b more ih =>
    rw [List.append_cons] at htag hlen ⊢
    have hfirst : (bytes ++ [b])[0]? = some (tag p) := by
      rwa [List.getElem?_append_left (by simp)] at htag
    have hshort : (bytes ++ [b]).length < frameLen s.rev p :=
      Nat.lt_of_le_of_lt (by simp) hlen
    exact ih (h.feedByte hfirst hshort) htag hlen

/-- With a whole correct frame received the checksum runs over exactly its bytes (R78). -/
theorem State.HasReceived.firstPassing (h : s.HasReceived bytes m)
    (htag : bytes[0]? = some (tag p)) (hlen : bytes.length = frameLen s.rev p)
    (hxor : xorBytes bytes = 0) : m.firstPassing = some p := by
  have hsize : bytes.length < 256 := h.wp ▸ m.wp.isLt
  have hwindow : ((List.range bytes.length).map fun k => m.windowByte (0 + k)) = bytes := by
    refine List.ext_getElem (by simp) fun k hk hk' => ?_
    simp [h.windowByte k (hk'.trans hsize), hk']
  have hchecksum : m.xorRange (m.wp.toNat - frameLen m.rev p) (frameLen m.rev p) = 0 := by
    rw [h.wp, h.rev, ← hlen, Nat.sub_self, xorRange_eq_xorBytes, hwindow, hxor]
  have horigin : m.windowByte (m.tagPosition p) = tag p := by
    rw [tagPosition_inSync h.sync, h.windowByte 0 (by decide), htag, Option.getD_some]
  have hgate : frameLen m.rev p ≤ m.wp.toNat := by rw [h.rev, h.wp, hlen]
  refine (firstPassing_eq_some_iff m p).2
    ⟨(passes_iff m p).2 ⟨hgate, horigin, hchecksum⟩, fun q hq hpass => ?_⟩
  obtain ⟨rfl, -⟩ := h.eq_and_le_of_passes htag hpass
  cases q <;> simp [earlierTypes] at hq

end

/-! ### A frame from an aligned block -/

/-- The block is InSync at the origin, with a canonical window: as a decode leaves it (R80). -/
structure State.Aligned (s : State) : Prop where
  wf : Memory.wf s.window = true
  sync : s.sync = .InSync
  wp : s.wp = 0
  cnt : s.cnt = 0

theorem State.Aligned.hasReceived_nil {s : State} (h : s.Aligned) : s.HasReceived [] s where
  wf := h.wf
  sync := h.sync
  wp := by rw [h.wp]; rfl
  cnt := by rw [h.cnt]; rfl
  rev := rfl
  slot _ := rfl
  windowByte _ _ := rfl

/-- Fed to an aligned block, a correct frame is all received when its last byte decodes it. -/
theorem State.Aligned.feedBytes_frame {s : State} (h : s.Aligned) {p : PacketType} {bytes : List Byte}
    (htag : bytes[0]? = some (tag p)) (hlen : bytes.length = frameLen s.rev p)
    (hxor : xorBytes bytes = 0) :
    ∃ m, s.HasReceived bytes m ∧ s.feedBytes bytes = (m.decodeType p).respond .ack := by
  have hfour := four_le_frameLen s.rev p
  have hmax := frameLen_le_maxLen s.rev p
  rcases List.eq_nil_or_concat' bytes with rfl | ⟨init, k, rfl⟩
  · cases htag
  · rw [List.length_append, List.length_singleton] at hlen
    have hfirst : init[0]? = some (tag p) := by
      rwa [List.getElem?_append_left (by omega)] at htag
    have hinit : s.HasReceived init (s.feedBytes init) :=
      h.hasReceived_nil.feedBytes (more := init) hfirst (by rw [List.nil_append]; omega)
    have hall := hinit.receiveByte (by omega) k
    refine ⟨_, hall, ?_⟩
    rw [feedBytes_append, feedBytes_cons, feedBytes_nil]
    exact feedByte_of_some (hall.firstPassing htag (by simpa using hlen) hxor)

/-- Settles O33: the last byte decodes the frame, from the window its bytes were stored in. -/
theorem alignedFrameIsDelivered : Obligations.AlignedFrameIsDelivered := by
  intro i r bytes s hr hwell hencode hwf hsync hwp hcnt
  have haligned : s.Aligned := ⟨hwf, hsync, hwp, hcnt⟩
  have hlen := length_of_frameRecord hencode hr
  obtain ⟨m, hm, hfeed⟩ := haligned.feedBytes_frame (tag_of_frameRecord hencode hr) hlen
    ((wellFormed_iff_xorBytes_eq_zero hencode).1 hwell)
  have hstart : m.candidateStart r.type = 0 := by
    rw [State.candidateStart, hm.wp, hm.rev, hlen, Nat.sub_self]
  have hrecord : m.decodeRecord r.type 0 = r := by
    refine decodeRecord_of_frameRecord hencode (hm.rev ▸ hr) fun a ha => ?_
    have hsize : bytes.length < 256 := hm.wp ▸ m.wp.isLt
    rw [hm.windowByte a (ha.trans hsize)]
    simp [ha]
  have hslot (v : PacketType) :
      ((m.decodeType r.type).respond .ack).slot v = if v = r.type then some r else s.slot v := by
    rw [slot_respond, slot_decodeType, hstart, hrecord, hm.slot]
  refine ⟨(m.decodeType r.type).respond .ack, ?_, ?_, fun v hv => ?_, rfl, rfl, rfl, ?_, ?_,
    fun a ha => ?_⟩
  · rw [exec_streamBytes hencode, hfeed]
  · rw [hslot, if_pos rfl]
  · rw [hslot, if_neg hv]
  · rw [respond_window, decodeType_window]
    exact hm.wf
  · rw [respond_rev, decodeType_rev, hm.rev]
  · rw [← hm.windowByte a ha]
    exact windowByte_congr (by simp) a

/-! ### Frames back to back -/

/-- The records of the frames among the instructions, in order. -/
def frameRecords (is : List Instr) : List Record :=
  is.filterMap fun i => i.frameRecord.map Prod.snd

/-- The last record of type `v` is that of the rest if it has one, and else the first frame's (R81). -/
theorem find?_frameRecords_cons {i : Instr} {rev : Rev} {r : Record}
    (hr : i.frameRecord = some (rev, r)) (is : List Instr) (v : PacketType) (old : Option Record) :
    ((frameRecords (i :: is)).reverse.find? fun r => r.type == v).or old =
      ((frameRecords is).reverse.find? fun r => r.type == v).or
        (if v = r.type then some r else old) := by
  have hcons : frameRecords (i :: is) = r :: frameRecords is := by simp [frameRecords, hr]
  rw [hcons, List.reverse_cons, List.find?_append, Option.or_assoc, List.find?_singleton]
  by_cases hv : v = r.type
  · simp [hv]
  · simp [hv, Ne.symm hv]

/-- Settles O34: each frame finds the block aligned, as the frame before it left it. -/
theorem alignedStreamIsDecoded : Obligations.AlignedStreamIsDecoded := by
  intro is s hframes hwf hsync hwp hcnt
  induction is generalizing s with
  | nil => exact ⟨s, rfl, hsync, hwp, hcnt, fun _ => rfl⟩
  | cons i is ih =>
    obtain ⟨hwell, r, hr⟩ := hframes i List.mem_cons_self
    obtain ⟨bytes, hencode⟩ := exists_encode_of_frameRecord hr
    obtain ⟨t, hexec, hslot, hother, htsync, htwp, htcnt, htwf, htrev, -⟩ :=
      alignedFrameIsDelivered i r bytes s hr hwell hencode hwf hsync hwp hcnt
    obtain ⟨u, hrun, husync, huwp, hucnt, huslot⟩ :=
      ih t (fun j hj => htrev ▸ hframes j (List.mem_cons_of_mem i hj)) htwf htsync htwp htcnt
    refine ⟨u, ?_, husync, huwp, hucnt, fun v => ?_⟩
    · rw [execAll, hexec]
      exact hrun
    · have htslot : t.slot v = if v = r.type then some r else s.slot v := by
        split_ifs with hv
        · rw [hv, hslot]
        · exact hother v hv
      rw [huslot, htslot]
      exact (find?_frameRecords_cons hr is v (s.slot v)).symm

end Sys2Proof.Machine
end

section
/-! SUPPORT. TAKE and PEEK by type (R93, R97): what each runs, and what a TAKE answers and leaves in each
of the two cases of the mailbox. -/

namespace Sys2Proof.Machine

@[simp] theorem exec_takeInstr (t : PacketType) (s : State) :
    exec (takeInstr t) s = .next (s.take t) := by
  cases t <;> rfl

@[simp] theorem exec_peekInstr (t : PacketType) (s : State) :
    exec (peekInstr t) s = .next (s.peek t) := by
  cases t <;> rfl

theorem takeResponse_eq_record_iff (o : Option Record) :
    (∃ r, takeResponse o = .record r) ↔ o ≠ none := by
  cases o <;> simp [takeResponse]

theorem takeResponse_eq_empty_iff (o : Option Record) : takeResponse o = .empty ↔ o = none := by
  cases o <;> simp [takeResponse]

/-- Clearing an empty mailbox writes nothing. -/
theorem clearSlot_of_slot_eq_none {s : State} {t : PacketType} (h : s.slot t = none) :
    s.clearSlot t = s := by
  cases s
  cases t <;> simp_all [State.slot, State.clearSlot]

theorem take_of_slot_eq_none {s : State} {t : PacketType} (h : s.slot t = none) :
    s.take t = s.respond .empty := by
  rw [State.take, clearSlot_of_slot_eq_none h, h, takeResponse]

@[simp] theorem slot_take_same (s : State) (t : PacketType) : (s.take t).slot t = none := by
  rw [slot_take, if_pos rfl]

/-- Settles O37: TAKE clears the mailbox, so that the second TAKE meets it empty. -/
theorem takeReturnsAndClears : Obligations.TakeReturnsAndClears := by
  refine ⟨by decide, by decide, by decide, fun s t =>
    ⟨s.take t, exec_takeInstr t s, slot_take_same s t, fun v hv => ?_, take_window s t, take_wp s t,
      take_cnt s t, take_sync s t, take_rev s t, take_rst s t, take_awaitingReset s t, take_pending s t,
      fun r hr => ?_, fun hnone => ?_, ?_⟩⟩
  · rw [slot_take, if_neg hv]
  · rw [take_responses, hr, takeResponse]
  · rw [take_responses, hnone, takeResponse]
  · rw [exec_takeInstr, take_of_slot_eq_none (slot_take_same s t), State.respond]

theorem peek_eq (s : State) (t : PacketType) :
    s.peek t = { s with responses := s.responses ++ [.flag (decide (s.slot t ≠ none))] } := by
  rw [State.peek, State.respond, ready_eq_decide]

@[simp] theorem slot_peek (s : State) (t v : PacketType) : (s.peek t).slot v = s.slot v :=
  slot_respond s _ v

/-- Settles O38: the flag says whether the mailbox is occupied, PEEK leaves the mailbox as it is, and TAKE
answers by the same condition. -/
theorem peekReturnsReadyFlag : Obligations.PeekReturnsReadyFlag := by
  refine ⟨by decide, by decide, by decide, fun s t => ?_, fun s t ready u hexec hflag => ?_⟩
  · rw [exec_peekInstr, peek_eq]
  · obtain rfl : s.peek t = u := Host.Outcome.next.inj ((exec_peekInstr t s).symm.trans hexec)
    have hready : decide (s.slot t ≠ none) = ready := by
      simpa only [peek_responses, List.append_cancel_left_eq, List.cons.injEq, Response.flag.injEq,
        and_true] using hflag
    refine ⟨(s.peek t).take t, takeResponse (s.slot t), exec_takeInstr t _, ?_, ?_, ?_⟩
    · rw [take_responses, slot_peek]
    · rw [← hready, decide_eq_true_iff, takeResponse_eq_record_iff]
    · rw [← hready, decide_eq_false_iff_not, not_not, takeResponse_eq_empty_iff]

end Sys2Proof.Machine
end

section
/-! SUPPORT. NOP (R102): its one effect is the response. -/

namespace Sys2Proof.Machine

@[simp] theorem exec_nop (s : State) : exec .nop s = .next (s.respond .ack) := by
  rw [exec, execNop]

/-- Settles O40: NOP is a response and nothing more, and a response only extends the response list. -/
theorem nopOnlyAcknowledges : Obligations.NopOnlyAcknowledges := by
  refine ⟨by decide, fun s => ?_⟩
  rw [exec_nop, State.respond]

end Sys2Proof.Machine
end

section
/-! SUPPORT. Which runs go on and which stop (60_exceptions): only an illegal command word ends a run. -/

namespace Sys2Proof.Machine

/-! ### The first step of a run -/

theorem run_succ_of_next {s t : State} (h : step s = .next t) (n : Nat) : run (n + 1) s = run n t := by
  rw [run, h]

theorem run_succ_of_fault {s : State} {f : Fault} (h : step s = .fault f) (n : Nat) :
    run (n + 1) s = .fault f := by
  rw [run, h]

/-! ### What goes on -/

/-- No instruction stops, and none reads or writes the host's events to come (R105, R114). -/
theorem exec_next (i : Instr) (s : State) : ∃ t, exec i s = .next t ∧ t.pending = s.pending := by
  rcases exec_cases i with ⟨b, -, he⟩ | ⟨p, -, he⟩ | ⟨answer, he⟩ | ⟨bytes, -, he⟩
  · exact ⟨_, he s, feedByte_pending s b⟩
  · exact ⟨_, he s, take_pending s p⟩
  · exact ⟨_, he s, respond_pending s _⟩
  · exact ⟨_, he s, feedBytes_pending s bytes⟩

theorem legalEvent_word_iff (c : CmdWord) :
    legalEvent (.offer (.word c)) = true ↔ ∃ i, decode (.word c) = .ok i := by
  cases hd : decode (.word c) <;> simp [legalEvent, hd]

/-- A legal word is an instruction, and any group of bytes is fed (R65, R108). -/
theorem accept_next_of_legal {x : Encoded} (h : legalEvent (.offer x) = true) (s : State) :
    ∃ t, accept x s = .next t ∧ t.pending = s.pending := by
  cases x with
  | word c =>
    obtain ⟨i, hdecode⟩ := (legalEvent_word_iff c).1 h
    rw [accept_of_decode_ok hdecode]
    exact exec_next i s
  | burst bytes => exact ⟨_, accept_burst bytes s, feedBytes_pending s bytes⟩

/-- A step on a legal event goes on, and takes that event and no other. -/
theorem step_next_of_legal {s : State} {e : HostEvent} {es : List HostEvent}
    (hpending : s.pending = e :: es) (hlegal : legalEvent e = true) :
    ∃ t, step s = .next t ∧ t.pending = es := by
  cases e with
  | assertRst => exact ⟨_, step_assertRst hpending, rfl⟩
  | deassertRst =>
    cases hrst : s.rst with
    | true => exact ⟨_, step_deassertRst hpending hrst, rfl⟩
    | false => exact ⟨_, step_deassertRst_low hpending hrst, rfl⟩
  | offer x =>
    cases haccepts : s.acceptsCommands with
    | true =>
      rw [step_offer hpending haccepts]
      exact accept_next_of_legal hlegal _
    | false => exact ⟨_, step_offer_not_accepted hpending haccepts, rfl⟩

theorem run_idle {s : State} (h : s.pending = []) (n : Nat) : run n s = .next s := by
  induction n with
  | zero => rfl
  | succ n ih => rw [run_succ_of_next (step_idle h), ih]

/-- Settles O15, by induction on the steps: every step leaves a state whose pending events are again all
legal, and a run out of events idles. -/
theorem legalRunsNeverStop : Obligations.LegalRunsNeverStop := by
  intro n
  induction n with
  | zero => exact fun s _ => ⟨s, rfl⟩
  | succ n ih =>
    intro s hlegal
    cases hpending : s.pending with
    | nil => exact ⟨s, run_idle hpending (n + 1)⟩
    | cons e es =>
      rw [hpending, List.all_cons, Bool.and_eq_true] at hlegal
      obtain ⟨he, hes⟩ := hlegal
      obtain ⟨t, hstep, ht⟩ := step_next_of_legal hpending he
      rw [run_succ_of_next hstep]
      exact ih t (ht ▸ hes)

/-- Settles O9: the idle step is the identity, and so is a run of them. -/
theorem idleHoldsState : Obligations.IdleHoldsState :=
  fun n _ hpending => run_idle hpending n

/-- Settles O42: every meaning is a FEED, a TAKE, an answer or the bytes of a frame, and none of these
stops. -/
theorem everyInstructionCompletes : Obligations.EveryInstructionCompletes := by
  intro i s
  obtain ⟨t, ht, -⟩ := exec_next i s
  exact ⟨t, ht⟩

/-! ### What stops, and what the block does there -/

/-- Settles O16: the first step faults, and a run stops at its first fault. -/
theorem illegalWordFaultsTheRun : Obligations.IllegalWordFaultsTheRun := by
  intro s c es r hpending hrst hawaiting hdecode n
  have haccepts : s.acceptsCommands = true := (acceptsCommands_iff s).2 ⟨hrst, hawaiting⟩
  exact run_succ_of_fault (step_illegal_word hpending haccepts hdecode) n

theorem blockStep_of_next {s t : State} (h : step s = .next t) : blockStep s = t := by
  simp only [blockStep, h]

/-- Settles O17: the block follows the model's step where it goes on; its answer to an illegal word is a
clause of O4. -/
theorem blockAnswersIllegalWord : Obligations.BlockAnswersIllegalWord := by
  obtain ⟨-, -, hanswer⟩ := illegalWordsAreExactlyThose
  exact ⟨fun _ _ => blockStep_of_next, hanswer⟩

end Sys2Proof.Machine
end

section
/-! SUPPORT. A correct frame fed to a block that is OutOfSync (R136, R137): a decode inside it leaves too few
bytes for its own, and without one its window is the one tested at its last byte. -/

namespace Sys2Proof.Machine

/-! ### Groups of bytes of which none completes a frame -/

theorem feedBytes_concat (s : State) (bytes : List Byte) (b : Byte) :
    s.feedBytes (bytes ++ [b]) = (s.feedBytes bytes).feedByte b := by
  rw [feedBytes_append, feedBytes_cons, feedBytes_nil]

/-- No FEED of the group decodes anything. -/
def State.Rejects (s : State) (bytes : List Byte) : Prop :=
  ∀ k b, bytes[k]? = some b → (s.feedBytes (bytes.take k)).decodedBy b = none

theorem rejects_nil (s : State) : s.Rejects [] := fun _ _ h => nomatch h

theorem rejects_concat_iff (s : State) (bytes : List Byte) (b : Byte) :
    s.Rejects (bytes ++ [b]) ↔ s.Rejects bytes ∧ (s.feedBytes bytes).decodedBy b = none := by
  have htake {k : Nat} (hk : k ≤ bytes.length) : (bytes ++ [b]).take k = bytes.take k :=
    List.take_append_of_le_length hk
  constructor
  · intro h
    refine ⟨fun k c hc => ?_, ?_⟩
    · obtain ⟨hk, -⟩ := List.getElem?_eq_some_iff.1 hc
      rw [← htake hk.le]
      exact h k c (by rwa [List.getElem?_append_left hk])
    · simpa using h bytes.length b (by simp)
  · rintro ⟨hinit, hlast⟩ k c hc
    rcases Nat.lt_trichotomy k bytes.length with hk | rfl | hk
    · rw [List.getElem?_append_left hk] at hc
      rw [htake hk.le]
      exact hinit k c hc
    · obtain rfl : b = c := by simpa using hc
      simpa using hlast
    · rw [List.getElem?_eq_none (by simp; omega)] at hc
      cases hc

theorem rejects_iff_of_concat (s : State) (bytes : List Byte) (b : Byte) :
    s.Rejects bytes ↔ ∀ k c, (bytes ++ [b])[k]? = some c → k + 1 < (bytes ++ [b]).length →
      (s.feedBytes ((bytes ++ [b]).take k)).decodedBy c = none := by
  refine forall₂_congr fun k c => ?_
  by_cases hk : k < bytes.length
  · simp [List.getElem?_append_left hk, List.take_append_of_le_length hk.le, hk]
  · simp [hk]

/-! ### The write pointer after a group of bytes -/

theorem feedByte_wp_of_none {s : State} {b : Byte} (h : s.decodedBy b = none) :
    (s.feedByte b).wp.toNat = (s.wp.toNat + 1) % 256 := by
  rw [feedByte_of_none h, respond_wp, receiveByte_wp_toNat]

theorem feedByte_wp_of_some {s : State} {b : Byte} {t : PacketType} (h : s.decodedBy b = some t) :
    (s.feedByte b).wp.toNat = 0 := by
  rw [feedByte_of_some h, respond_wp, decodeType_wp]
  rfl

section
variable {s : State} {bytes : List Byte}

theorem State.Rejects.feedBytes_wp (h : s.Rejects bytes) :
    (s.feedBytes bytes).wp.toNat = (s.wp.toNat + bytes.length) % 256 := by
  induction bytes using List.reverseRecOn with
  | nil => exact (Nat.mod_eq_of_lt s.wp.isLt).symm
  | append_singleton bytes b ih =>
    obtain ⟨hinit, hlast⟩ := (rejects_concat_iff s bytes b).1 h
    rw [feedBytes_concat, feedByte_wp_of_none hlast, ih hinit, List.length_append,
      List.length_singleton]
    omega

/-- A decode moves the origin, so that only the bytes after it count (R80). -/
theorem feedBytes_wp_lt_of_not_rejects (h : ¬ s.Rejects bytes) :
    (s.feedBytes bytes).wp.toNat < bytes.length := by
  induction bytes using List.reverseRecOn with
  | nil => exact absurd (rejects_nil s) h
  | append_singleton bytes b ih =>
    rw [rejects_concat_iff] at h
    rw [feedBytes_concat, List.length_append, List.length_singleton]
    cases hlast : (s.feedBytes bytes).decodedBy b with
    | some t =>
      rw [feedByte_wp_of_some hlast]
      omega
    | none =>
      have hinit := ih fun hinit => h ⟨hinit, hlast⟩
      rw [feedByte_wp_of_none hlast]
      omega

theorem feedBytes_wp_le (s : State) (bytes : List Byte) :
    (s.feedBytes bytes).wp.toNat ≤ s.wp.toNat + bytes.length := by
  by_cases h : s.Rejects bytes
  · rw [h.feedBytes_wp]
    exact Nat.mod_le _ _
  · have := feedBytes_wp_lt_of_not_rejects h
    omega

/-- A group of bytes that leaves the pointer below a type's frame length leaves its mailbox (R76). -/
theorem slot_feedBytes_of_wp_lt {p : PacketType} (h : s.wp.toNat + bytes.length < frameLen s.rev p) :
    (s.feedBytes bytes).slot p = s.slot p := by
  induction bytes using List.reverseRecOn with
  | nil => rfl
  | append_singleton bytes b ih =>
    rw [List.length_append, List.length_singleton] at h
    have hwp := feedBytes_wp_le s bytes
    have hshort : (s.feedBytes bytes).decodedBy b ≠ some p :=
      decodedBy_ne_some_of_wp_lt (by rw [feedBytes_rev]; omega)
    rw [feedBytes_concat, slot_feedByte_of_not_decoded hshort, ih (by omega)]

end

/-! ### Bytes received while OutOfSync -/

/-- `m` is the block `s` with `bytes` received from its pointer on while OutOfSync, up to the wrap at most,
and none of them decoded. -/
structure State.HasPassedOver (s : State) (bytes : List Byte) (m : State) : Prop where
  wf : Memory.wf m.window = true
  sync : m.sync = .OutOfSync
  wp : m.wp.toNat = s.wp.toNat + bytes.length
  rev : m.rev = s.rev
  slot : ∀ v, m.slot v = s.slot v
  windowByte : ∀ k, k < bytes.length → m.windowByte (s.wp.toNat + k) = bytes.getD k 0

section
variable {s m : State} {bytes : List Byte}

theorem State.HasPassedOver.respond (h : s.HasPassedOver bytes m) (v : Response) :
    s.HasPassedOver bytes (m.respond v) where
  wf := h.wf
  sync := h.sync
  wp := h.wp
  rev := h.rev
  slot u := (slot_respond m v u).trans (h.slot u)
  windowByte := h.windowByte

/-- Steps 1 and 2 of FEED below the wrap: OutOfSync the count no longer matters (R72, R73). -/
theorem State.HasPassedOver.receiveByte (h : s.HasPassedOver bytes m) {b : Byte}
    (hwrap : s.wp.toNat + (bytes ++ [b]).length < 256) :
    s.HasPassedOver (bytes ++ [b]) (m.receiveByte b) := by
  rw [List.length_append, List.length_singleton] at hwrap
  refine ⟨receiveByte_wf h.wf b, ?_, ?_, (receiveByte_rev m b).trans h.rev,
    fun v => (slot_receiveByte m b v).trans (h.slot v), fun k hk => ?_⟩
  · rw [receiveByte_sync, h.sync, ite_self]
  · rw [receiveByte_wp_toNat, h.wp, List.length_append, List.length_singleton]
    omega
  · rw [List.length_append, List.length_singleton] at hk
    have hindex : s.wp.toNat + k < Config.capacity := by
      rw [Config.capacity]
      omega
    rw [windowByte_receiveByte h.wf b hindex, h.wp]
    by_cases hlast : k = bytes.length
    · simp [hlast]
    · have hinit : k < bytes.length := by omega
      rw [if_neg (by omega), h.windowByte k hinit, List.getD_append _ _ _ _ hinit]

theorem State.HasPassedOver.feedByte (h : s.HasPassedOver bytes m) {b : Byte}
    (hwrap : s.wp.toNat + (bytes ++ [b]).length < 256) (hnone : m.decodedBy b = none) :
    s.HasPassedOver (bytes ++ [b]) (m.feedByte b) :=
  feedByte_of_none hnone ▸ (h.receiveByte hwrap).respond .ack

theorem State.Rejects.hasPassedOver (h : s.Rejects bytes) (hwf : Memory.wf s.window = true)
    (hsync : s.sync = .OutOfSync) (hwrap : s.wp.toNat + bytes.length < 256) :
    s.HasPassedOver bytes (s.feedBytes bytes) := by
  induction bytes using List.reverseRecOn with
  | nil => exact ⟨hwf, hsync, rfl, rfl, fun _ => rfl, fun k hk => absurd hk (Nat.not_lt_zero k)⟩
  | append_singleton bytes b ih =>
    obtain ⟨hinit, hlast⟩ := (rejects_concat_iff s bytes b).1 h
    have hshort : s.wp.toNat + bytes.length < 256 := by
      rw [List.length_append, List.length_singleton] at hwrap
      omega
    rw [feedBytes_concat]
    exact (ih hinit hshort).feedByte hwrap hlast

/-- A candidate window inside the bytes received has their checksum (R78). -/
theorem State.HasPassedOver.xorRange_eq (h : s.HasPassedOver bytes m) {i len : Nat}
    (hlen : i + len ≤ bytes.length) :
    m.xorRange (s.wp.toNat + i) len = xorBytes ((bytes.drop i).take len) := by
  rw [xorRange_eq_xorBytes]
  refine congrArg xorBytes (List.ext_getElem (by simp; omega) fun k hk _ => ?_)
  rw [List.length_map, List.length_range] at hk
  have hindex : i + k < bytes.length := by omega
  simp [Nat.add_assoc, h.windowByte (i + k) hindex, hindex]

variable {p : PacketType}

/-- With a whole correct frame received, its type passes at its last byte (R77, R78). -/
theorem State.HasPassedOver.passes (h : s.HasPassedOver bytes m) (htag : bytes[0]? = some (tag p))
    (hlen : bytes.length = frameLen s.rev p) (hxor : xorBytes bytes = 0) : m.passes p = true := by
  obtain ⟨hpos, -⟩ := List.getElem?_eq_some_iff.1 htag
  have hstart : m.wp.toNat - frameLen m.rev p = s.wp.toNat + 0 := by
    rw [h.wp, h.rev, hlen]
    omega
  have hgate : frameLen m.rev p ≤ m.wp.toNat := by
    rw [h.wp, h.rev, hlen]
    omega
  rw [passes_iff_of_outOfSync h.sync, hstart, h.windowByte 0 hpos, h.rev, ← hlen,
    h.xorRange_eq (by omega), List.drop_zero, List.take_length]
  exact ⟨by rwa [hlen, ← h.rev], by simp [List.getD_eq_getElem?_getD, htag], hxor⟩

/-- The window that holds a frame holds its record, wherever it starts (R59, R60). -/
theorem State.HasPassedOver.decodeRecord_eq {i : Instr} {r : Record} (h : s.HasPassedOver bytes m)
    (hencode : encode i = .burst bytes) (hr : i.frameRecord = some (s.rev, r)) :
    m.decodeRecord r.type s.wp.toNat = r := by
  have hbytes := h.windowByte
  cases i with
  | nop | feed | takeQ | takeS | takeB | peekQ | peekS | peekB | status => cases hencode
  | frameQWC | frameQNC | frameSWC | frameSNC | frameBWC | frameBNC =>
    cases hencode
    obtain ⟨hrev, rfl⟩ := Prod.mk.inj (Option.some.inj hr)
    simp [State.decodeRecord, State.fieldAt, State.counterAt, Record.type, hasCounter, fieldCount,
      h.rev, ← hrev, hbytes, Nat.add_assoc, frameBytes, QuaternionFields.bytes, SensorFields.bytes,
      BatteryFields.bytes]

end

/-! ### The frame's last byte (R137) -/

/-- The last byte can decode the frame only if all the frame lies between the last decode and the wrap. -/
theorem rejects_and_lt_of_passes {s : State} {bytes : List Byte} {b : Byte} {p : PacketType}
    (hlen : (bytes ++ [b]).length = frameLen s.rev p)
    (hpass : ((s.feedBytes bytes).receiveByte b).passes p = true) :
    s.Rejects bytes ∧ s.wp.toNat + (bytes ++ [b]).length < 256 := by
  have hwp := s.wp.isLt
  obtain ⟨hgate, -, -⟩ := (passes_iff _ p).1 hpass
  rw [receiveByte_wp_toNat, receiveByte_rev, feedBytes_rev, ← hlen] at hgate
  rw [List.length_append, List.length_singleton] at hgate ⊢
  have hrejects : s.Rejects bytes := by
    by_contra hdecode
    have := feedBytes_wp_lt_of_not_rejects hdecode
    omega
  rw [hrejects.feedBytes_wp] at hgate
  exact ⟨hrejects, by omega⟩

section
variable {s : State} {bytes : List Byte} {b : Byte}

/-- What the match procedure sees at the last byte of a group of which nothing was decoded before. -/
theorem State.Rejects.hasPassedOver_concat (h : s.Rejects bytes) (hwf : Memory.wf s.window = true)
    (hsync : s.sync = .OutOfSync) (hwrap : s.wp.toNat + (bytes ++ [b]).length < 256) :
    s.HasPassedOver (bytes ++ [b]) ((s.feedBytes bytes).receiveByte b) := by
  refine (h.hasPassedOver hwf hsync ?_).receiveByte hwrap
  rw [List.length_append] at hwrap
  omega

/-- The condition of R137, for a correct frame of type `p`. -/
theorem firstPassing_last_byte_iff {p : PacketType} (hwf : Memory.wf s.window = true)
    (hsync : s.sync = .OutOfSync) (htag : (bytes ++ [b])[0]? = some (tag p))
    (hlen : (bytes ++ [b]).length = frameLen s.rev p) (hxor : xorBytes (bytes ++ [b]) = 0) :
    ((s.feedBytes bytes).receiveByte b).firstPassing = some p ↔
      s.Rejects bytes ∧ s.wp.toNat + (bytes ++ [b]).length < 256 ∧
        ∀ v ∈ earlierTypes p, ((s.feedBytes bytes).receiveByte b).passes v = false := by
  simp only [firstPassing_eq_some_iff, Bool.not_eq_true]
  constructor
  · rintro ⟨hpass, hearlier⟩
    obtain ⟨hrejects, hwrap⟩ := rejects_and_lt_of_passes hlen hpass
    exact ⟨hrejects, hwrap, hearlier⟩
  · rintro ⟨hrejects, hwrap, hearlier⟩
    exact ⟨(hrejects.hasPassedOver_concat hwf hsync hwrap).passes htag hlen hxor, hearlier⟩

end

/-- A frame's bytes end in one (R58). -/
theorem exists_concat_of_frameRecord {i : Instr} {rev : Rev} {r : Record} {bytes : List Byte}
    (hencode : encode i = .burst bytes) (hr : i.frameRecord = some (rev, r)) :
    ∃ init b, bytes = init ++ [b] := by
  have hpos := four_le_frameLen rev r.type
  rw [← length_of_frameRecord hencode hr] at hpos
  refine (List.eq_nil_or_concat' bytes).resolve_left ?_
  rintro rfl
  cases hpos

/-- The mailboxes after a frame decoded at its last byte (R79, R81). -/
theorem slot_feedBytes_of_firstPassing {i : Instr} {r : Record} {s : State} {bytes : List Byte} {b : Byte}
    (hencode : encode i = .burst (bytes ++ [b])) (hr : i.frameRecord = some (s.rev, r))
    (hpassed : s.HasPassedOver (bytes ++ [b]) ((s.feedBytes bytes).receiveByte b))
    (hfirst : ((s.feedBytes bytes).receiveByte b).firstPassing = some r.type) (v : PacketType) :
    (s.feedBytes (bytes ++ [b])).slot v = if v = r.type then some r else s.slot v := by
  have hstart : ((s.feedBytes bytes).receiveByte b).candidateStart r.type = s.wp.toNat := by
    rw [State.candidateStart, hpassed.wp, hpassed.rev, length_of_frameRecord hencode hr,
      Nat.add_sub_cancel]
  rw [feedBytes_concat, feedByte_of_some hfirst, slot_respond, slot_decodeType, hstart,
    hpassed.decodeRecord_eq hencode hr, hpassed.slot]

/-- Settles O36: at the last byte the pointer reaches the frame's length only without a decode and without
the wrap, and then its type passes.  OutOfSync the count plays no part. -/
theorem resyncExactlyUnderItsConditions : Obligations.ResyncExactlyUnderItsConditions := by
  intro i r bytes s hr hwell hencode hwf hsync _
  obtain ⟨init, b, rfl⟩ := exists_concat_of_frameRecord hencode hr
  have hlen := length_of_frameRecord hencode hr
  have hiff := firstPassing_last_byte_iff hwf hsync (tag_of_frameRecord hencode hr) hlen
    ((wellFormed_iff_xorBytes_eq_zero hencode).1 hwell)
  refine ⟨s.feedBytes (init ++ [b]), (s.feedBytes init).receiveByte b, execAll_map_feed s _, ?_, ?_,
    fun hfirst => ?_⟩
  · rw [List.dropLast_concat, List.getLastD_concat]
  · rw [hiff, rejects_iff_of_concat s init b]
  · obtain ⟨hrejects, hwrap, -⟩ := hiff.1 hfirst
    have hpassed := hrejects.hasPassedOver_concat hwf hsync hwrap
    refine ⟨?_, ?_, ?_⟩
    · rw [slot_feedBytes_of_firstPassing hencode hr hpassed hfirst, if_pos rfl]
    · rw [feedBytes_concat, feedByte_of_some hfirst, respond_sync, decodeType_sync]
    · rw [tagPosition_outOfSync hpassed.sync, hpassed.wp, hpassed.rev, hlen, Nat.add_sub_cancel]

/-! ### Candidate windows inside a group of bytes (R136) -/

theorem windowPasses_iff (rev : Rev) (bytes : List Byte) (n : Nat) (v : PacketType) :
    windowPasses rev bytes n v = true ↔
      frameLen rev v ≤ n ∧ n ≤ bytes.length ∧ bytes[n - frameLen rev v]? = some (tag v) ∧
        xorBytes ((bytes.drop (n - frameLen rev v)).take (frameLen rev v)) = 0 := by
  simp [windowPasses, and_assoc]

/-- A window that ends inside the first bytes does not depend on those after them. -/
theorem windowPasses_append (rev : Rev) {bytes : List Byte} (more : List Byte) {n : Nat}
    (hn : n ≤ bytes.length) (v : PacketType) :
    windowPasses rev (bytes ++ more) n v = windowPasses rev bytes n v := by
  have hlen := four_le_frameLen rev v
  rw [Bool.eq_iff_iff, windowPasses_iff, windowPasses_iff]
  refine and_congr_right fun hgate => ?_
  rw [List.getElem?_append_left (by omega), List.drop_append_of_le_length (by omega),
    List.take_append_of_le_length (by rw [List.length_drop]; omega), List.length_append]
  simp [hn, Nat.le_add_right_of_le hn]

/-- In a block whose window holds the bytes from index 0 on, the attempts are on their windows. -/
theorem State.HasPassedOver.passes_eq_windowPasses {s m : State} {bytes : List Byte}
    (h : s.HasPassedOver bytes m) (hwp : s.wp.toNat = 0) (v : PacketType) :
    m.passes v = windowPasses s.rev bytes bytes.length v := by
  have hlen := four_le_frameLen s.rev v
  have hindex (k : Nat) : s.wp.toNat + k = k := by rw [hwp, Nat.zero_add]
  rw [Bool.eq_iff_iff, passes_iff_of_outOfSync h.sync, windowPasses_iff, h.wp, h.rev, hindex]
  refine and_congr_right fun hgate => ?_
  have hstart : bytes.length - frameLen s.rev v < bytes.length := by omega
  have htag := h.windowByte _ hstart
  have hxor := h.xorRange_eq (Nat.sub_add_cancel hgate).le
  rw [hindex] at htag hxor
  rw [htag, hxor]
  simp [hstart]

/-- The windows inside a group of bytes end inside its first bytes, or with its last one. -/
theorem forall_windowPasses_concat_iff (rev : Rev) (bytes : List Byte) (b : Byte) :
    (∀ n v, n ≤ (bytes ++ [b]).length → windowPasses rev (bytes ++ [b]) n v = false) ↔
      (∀ n v, n ≤ bytes.length → windowPasses rev bytes n v = false) ∧
        ∀ v, windowPasses rev (bytes ++ [b]) (bytes ++ [b]).length v = false := by
  constructor
  · intro h
    refine ⟨fun n v hn => ?_, fun v => h _ v le_rfl⟩
    rw [← windowPasses_append rev [b] hn]
    exact h n v (by rw [List.length_append]; omega)
  · rintro ⟨hinit, hlast⟩ n v hn
    rcases Nat.lt_or_eq_of_le hn with hlt | rfl
    · rw [List.length_append, List.length_singleton, Nat.lt_succ_iff] at hlt
      rw [windowPasses_append rev [b] hlt]
      exact hinit n v hlt
    · exact hlast v

/-- From index 0 on, nothing is decoded exactly where no window inside the bytes passes. -/
theorem rejects_iff_windowPasses {s : State} {bytes : List Byte} (hwf : Memory.wf s.window = true)
    (hsync : s.sync = .OutOfSync) (hwp : s.wp.toNat = 0) (hlen : bytes.length < 256) :
    s.Rejects bytes ↔ ∀ n v, n ≤ bytes.length → windowPasses s.rev bytes n v = false := by
  induction bytes using List.reverseRecOn with
  | nil =>
    refine iff_of_true (rejects_nil s) fun n v hn => ?_
    have hfour := four_le_frameLen s.rev v
    rw [List.length_nil] at hn
    rw [Bool.eq_false_iff, ne_eq, windowPasses_iff]
    omega
  | append_singleton bytes b ih =>
    have hshort : bytes.length < 256 := by
      rw [List.length_append] at hlen
      omega
    have hlast (h : s.Rejects bytes) : (s.feedBytes bytes).decodedBy b = none ↔
        ∀ v, windowPasses s.rev (bytes ++ [b]) (bytes ++ [b]).length v = false := by
      have hpassed := h.hasPassedOver_concat (b := b) hwf hsync (by omega)
      simp only [State.decodedBy, firstPassing_eq_none_iff, hpassed.passes_eq_windowPasses hwp,
        Bool.not_eq_true]
    rw [rejects_concat_iff, and_congr_right hlast, ih hshort,
      ← forall_windowPasses_concat_iff]

/-- The condition of R136 is that of R137 for a block whose pointer is at index 0. -/
theorem windowPasses_condition_iff {s : State} {bytes : List Byte} {b : Byte} {p : PacketType}
    (hwf : Memory.wf s.window = true) (hsync : s.sync = .OutOfSync) (hwp : s.wp.toNat = 0)
    (hlen : (bytes ++ [b]).length < 256) :
    ((∀ n v, n < (bytes ++ [b]).length → windowPasses s.rev (bytes ++ [b]) n v = false) ∧
        ∀ v ∈ earlierTypes p, windowPasses s.rev (bytes ++ [b]) (bytes ++ [b]).length v = false) ↔
      s.Rejects bytes ∧ s.wp.toNat + (bytes ++ [b]).length < 256 ∧
        ∀ v ∈ earlierTypes p, ((s.feedBytes bytes).receiveByte b).passes v = false := by
  have hwrap : s.wp.toNat + (bytes ++ [b]).length < 256 := by omega
  have hinside : (∀ n v, n < (bytes ++ [b]).length → windowPasses s.rev (bytes ++ [b]) n v = false) ↔
      s.Rejects bytes := by
    rw [List.length_append, List.length_singleton] at hlen ⊢
    rw [rejects_iff_windowPasses hwf hsync hwp (by omega)]
    simp +contextual only [Nat.lt_succ_iff, windowPasses_append]
  rw [hinside, eq_true hwrap, true_and]
  refine and_congr_right fun hrejects => ?_
  simp only [(hrejects.hasPassedOver_concat hwf hsync hwrap).passes_eq_windowPasses hwp]

/-- Settles O35: only the frame's last byte can decode its type, so its record is in its mailbox exactly when
that byte does, which is the condition of R137 from index 0. -/
theorem roundTripExactlyWhenNoWindowInside : Obligations.RoundTripExactlyWhenNoWindowInside := by
  intro i rev r bytes hr hwell hencode
  obtain ⟨init, b, rfl⟩ := exists_concat_of_frameRecord hencode hr
  have hlen := length_of_frameRecord hencode hr
  have hmax := frameLen_le_maxLen rev r.type
  have hsize := maxLen_lt_256 rev
  have hiff := firstPassing_last_byte_iff (s := State.fresh rev) rfl rfl
    (tag_of_frameRecord hencode hr) hlen ((wellFormed_iff_xorBytes_eq_zero hencode).1 hwell)
  have hempty (v : PacketType) : (State.fresh rev).slot v = none := by cases v <;> rfl
  refine ⟨_, execAll_map_feed (State.fresh rev) _, ?_⟩
  have hcondition := windowPasses_condition_iff (s := State.fresh rev) (bytes := init) (b := b)
    (p := r.type) rfl rfl rfl (by omega)
  refine Iff.trans ?_ (hiff.trans hcondition.symm)
  constructor
  · rintro ⟨hslot, -⟩
    by_contra hne
    rw [feedBytes_concat, slot_feedByte_of_not_decoded hne, slot_feedBytes_of_wp_lt, hempty] at hslot
    · cases hslot
    · rw [List.length_append, List.length_singleton] at hlen
      have hwp : (State.fresh rev).wp.toNat = 0 := rfl
      have hrev : (State.fresh rev).rev = rev := rfl
      rw [hwp, hrev]
      omega
  · intro hfirst
    obtain ⟨hrejects, hwrap, -⟩ := hiff.1 hfirst
    have hslot := slot_feedBytes_of_firstPassing hencode hr
      (hrejects.hasPassedOver_concat rfl rfl hwrap) hfirst
    refine ⟨by rw [hslot, if_pos rfl], fun v hv => ?_⟩
    rw [hslot, if_neg hv, hempty]

end Sys2Proof.Machine
end

section
/-! SUPPORT. The reset input and power-up (R121, R122): what a step can leave, and the units that a block
which accepts no command drops. -/

namespace Sys2Proof.Machine

/-- What a step can leave: the same block, with its next event taken and its reset input as the event sets
it; the reset block; or what accepting the offered unit leaves. -/
theorem step_cases {s t : State} (h : step s = .next t) :
    ∃ es, (∃ level, t = { s with pending := es, rst := level }) ∨
      t = State.resetBlock { s with pending := es } ∨
      ∃ x, accept x { s with pending := es } = .next t := by
  cases hpending : s.pending with
  | nil =>
    obtain rfl := Host.Outcome.next.inj ((step_idle hpending).symm.trans h)
    exact ⟨s.pending, .inl ⟨s.rst, rfl⟩⟩
  | cons e es =>
    refine ⟨es, ?_⟩
    cases e with
    | assertRst =>
      exact .inl ⟨true, Host.Outcome.next.inj (h.symm.trans (step_assertRst hpending))⟩
    | deassertRst =>
      cases hrst : s.rst with
      | true =>
        exact .inr (.inl (Host.Outcome.next.inj (h.symm.trans (step_deassertRst hpending hrst))))
      | false =>
        have hstep := step_deassertRst_low hpending hrst
        exact .inl ⟨s.rst, Host.Outcome.next.inj (h.symm.trans hstep)⟩
    | offer x =>
      cases haccepts : s.acceptsCommands with
      | true => exact .inr (.inr ⟨x, (step_offer hpending haccepts).symm.trans h⟩)
      | false =>
        have hstep := step_offer_not_accepted hpending haccepts
        exact .inl ⟨s.rst, Host.Outcome.next.inj (h.symm.trans hstep)⟩

theorem accept_rev {x : Encoded} {s t : State} (h : accept x s = .next t) : t.rev = s.rev := by
  rcases accept_cases x with ⟨c, he⟩ | ⟨bytes, he⟩ | ⟨p, he⟩ | ⟨answer, he⟩ <;> rw [he s] at h <;>
    cases h
  · exact feedBytes_rev s bytes
  · exact take_rev s p
  · exact respond_rev s _

/-- Settles O14: `REV` is configuration, which a reset keeps and no unit writes (R122). -/
theorem noStepChangesRevision : Obligations.NoStepChangesRevision := by
  intro s t h
  obtain ⟨es, ⟨level, rfl⟩ | rfl | ⟨x, haccept⟩⟩ := step_cases h
  · rfl
  · rfl
  · have hrev := accept_rev haccept
    exact hrev

/-- Settles O10: each clause is the step on its event. -/
theorem resetInput : Obligations.ResetInput := by
  refine ⟨fun s es => step_assertRst, fun s x es hpending hrst => ?_, fun s es hpending hrst => ?_,
    fun s es => step_deassertRst_low⟩
  · exact step_offer_not_accepted hpending (by simp [State.acceptsCommands, hrst])
  · have hempty (p : PacketType) : (State.resetBlock { s with pending := es }).slot p = none := by
      cases p <;> rfl
    exact ⟨_, step_deassertRst hpending hrst, fun _ => rfl, rfl, rfl, rfl, hempty, rfl, rfl, rfl, rfl, rfl⟩

/-! ### Power-up (R121) -/

/-- The units offered at power-up are dropped one by one, whatever stands behind them. -/
theorem run_powerUp_offers (contents : State) (units : List Encoded) (es : List HostEvent) (n : Nat) :
    run (units.length + n) (State.powerUp { contents with pending := units.map .offer ++ es }) =
      run n (State.powerUp { contents with pending := es }) := by
  induction units with
  | nil => rw [List.length_nil, Nat.zero_add, List.map_nil, List.nil_append]
  | cons x units ih =>
    have hstep : step (State.powerUp { contents with pending := (x :: units).map .offer ++ es }) =
        .next (State.powerUp { contents with pending := units.map .offer ++ es }) :=
      step_offer_not_accepted rfl (acceptsCommands_powerUp _)
    rw [List.length_cons, Nat.succ_add, run_succ_of_next hstep, ih]

/-- The first reset ends power-up in the reset state (R34). -/
theorem run_powerUp_reset (contents : State) :
    run 2 (State.powerUp { contents with pending := [.assertRst, .deassertRst] }) =
      .next { State.fresh contents.rev with responses := contents.responses } := by
  rw [run_succ_of_next (step_assertRst rfl), run_succ_of_next (step_deassertRst rfl rfl)]
  rfl

/-- Settles O47: the units are dropped, and the two reset events are then the next ones. -/
theorem powerUpAcceptsNothingUntilReset : Obligations.PowerUpAcceptsNothingUntilReset := by
  refine ⟨fun contents units => ?_, fun contents units => ?_⟩
  · simpa [run] using run_powerUp_offers contents units [] 0
  · rw [run_powerUp_offers, run_powerUp_reset]

end Sys2Proof.Machine
end

section
/-! SUPPORT. Padding at the origin (R127): InSync every attempt tests the byte at index 0. -/

namespace Sys2Proof.Machine

/-- Settles O28: the byte at index 0 is no tag, and a FEED behind it does not write there. -/
theorem paddingBlocksFastPath : Obligations.PaddingBlocksFastPath := by
  rintro s b ⟨hwf, -, hinSync, -⟩ hsync hpos hpad hcnt
  obtain ⟨hwp, -⟩ := hinSync hsync
  have hmax := maxLen_lt_256 s.rev
  have hroom : ¬ maxLen s.rev < s.cnt.toNat + 1 := by omega
  have hsync' : (s.receiveByte b).sync = .InSync := by rw [receiveByte_sync, if_neg hroom, hsync]
  have hnone : s.decodedBy b = none := by
    refine (firstPassing_eq_none_iff _).2 fun t hpass => ?_
    obtain ⟨-, htag, -⟩ := (passes_iff _ t).1 hpass
    rw [tagPosition_inSync hsync', windowByte_receiveByte hwf b (by decide), if_neg hpos.ne] at htag
    exact hpad t htag
  refine ⟨s.feedByte b, rfl, ?_, ?_, ?_, ?_, fun v => ?_⟩
  · rw [feedByte_of_none hnone, respond_sync, hsync']
  · rw [windowByte_feedByte hwf b (by decide), if_neg hpos.ne]
  · rw [feedByte_cnt_of_none hnone]
    omega
  · rw [feedByte_wp_of_none hnone, hwp]
    omega
  · rw [feedByte_of_none hnone, slot_respond, slot_receiveByte]

end Sys2Proof.Machine
end
